-- ==== Sys2Proof/Word.lean ====
section
/-! DEFINITION. The word types of the block (00_scope.md section 6, 30_encoding.md R60, R68). -/

namespace Sys2Proof

/-- A byte: the unit of FB (20_memory.md R40) and of the panel stream (30_encoding.md R70). -/
abbrev Byte := BitVec 8

/-- A 16-bit word: a native pixel of a staging slot, a response, a page or column value. -/
abbrev Half := BitVec 16

/-- A 24-bit colour value `R ‖ G ‖ B` (20_memory.md R43). -/
abbrev Color := BitVec 24

/-- A 64-bit command word (30_encoding.md R60). -/
abbrev CmdWord := BitVec 64

end Sys2Proof
end

