-- ==== Sys2Proof/Syntax.lean ====
section
/-! DEFINITION. The five commands of 30_encoding.md R62 as syntax, one constructor per row of
spec/opcode_table.json. Operands that the spec compares or scales as naturals (R65, 41_band_converter.md
R109) are naturals; the colour, which it slices, is a bit vector. That a natural fits its field is
`Instr.wellFormed` (WellFormed.lean). -/

namespace Sys2Proof

/-- A command (30_encoding.md R62). -/
inductive Instr where
  /-- WRITE_PIXEL x, y, color (40_framebuffer_store.md R80). -/
  | writePixel (x y : Nat) (color : Color)
  /-- FILL color (40_framebuffer_store.md R81). -/
  | fill (color : Color)
  /-- READ_FB addr (40_framebuffer_store.md R82). -/
  | readFb (addr : Nat)
  /-- CONVERT_BAND row_start (41_band_converter.md R106). -/
  | convertBand (rowStart : Nat)
  /-- REFRESH (42_transfer_scheduler.md R120). -/
  | refresh
  deriving DecidableEq, Repr

end Sys2Proof
end

