-- ==== Sys2Proof/WellFormed.lean ====
section
/-! DEFINITION. When a command has an encoding: every operand fits its field (30_encoding.md R61, R65).
"An operand that does not fit its field is an assembler error, not a truncation" (R73). -/

namespace Sys2Proof

/-- Every operand of the command fits the field its format gives it (30_encoding.md R61). -/
def Instr.wellFormed : Instr → Bool
  | .writePixel x y _ => decide (x < 2 ^ 16) && decide (y < 2 ^ 16)
  | .fill _ => true
  | .readFb addr => decide (addr < 2 ^ 32)
  | .convertBand rowStart => decide (rowStart < 2 ^ 16)
  | .refresh => true

end Sys2Proof
end

