-- ==== Sys2Proof/Decode.lean ====
section
/-! DEFINITION. Decoding and encoding of command words (30_encoding.md sections 1 to 3). The command
word is a 64-bit value; no serialisation into bytes is defined (R60), so decoding takes the word. -/

namespace Sys2Proof

/-- Why a word is ILLEGAL (30_encoding.md R63, R64). The spec has one ILLEGAL; the two names say which
check of R64 failed and have the same effect, `raise IllegalCommand` (60_exceptions.md R151; assumption
log 12). -/
inductive Illegal where
  /-- `op` is none of the five values of R62. -/
  | unknownOp (op : Byte)
  /-- `op` is one of the five and a field its format marks "must be 0" is not 0 (R63). -/
  | mustBeZero (op : Byte)
  deriving DecidableEq, Repr

/-- The field `op`, bits 63:56 (R61). -/
def opField (w : CmdWord) : Byte := w.extractLsb' 56 8
/-- The field `x`, bits 55:40 (R61). -/
def xField (w : CmdWord) : Half := w.extractLsb' 40 16
/-- The field `y`, bits 39:24 (R61). -/
def yField (w : CmdWord) : Half := w.extractLsb' 24 16
/-- The field `color`, bits 23:0 (R61). -/
def colorField (w : CmdWord) : Color := w.extractLsb' 0 24
/-- The operand `addr` of format A, bits 31:0 (R61). -/
def addrField (w : CmdWord) : BitVec 32 := w.extractLsb' 0 32

/-- `Decode(w)` of 30_encoding.md R64, total on the 2^64 words. -/
def decode (w : CmdWord) : Except Illegal Instr :=
  if opField w = 0x01#8 then
    .ok (.writePixel (xField w).toNat (yField w).toNat (colorField w))
  else if opField w = 0x02#8 then
    if w.extractLsb' 24 32 = 0#32 then .ok (.fill (colorField w)) else .error (.mustBeZero 0x02#8)
  else if opField w = 0x03#8 then
    if w.extractLsb' 32 24 = 0#24 then .ok (.readFb (addrField w).toNat)
    else .error (.mustBeZero 0x03#8)
  else if opField w = 0x10#8 then
    if xField w = 0#16 ∧ colorField w = 0#24 then .ok (.convertBand (yField w).toNat)
    else .error (.mustBeZero 0x10#8)
  else if opField w = 0x20#8 then
    if w.extractLsb' 0 56 = 0#56 then .ok .refresh else .error (.mustBeZero 0x20#8)
  else .error (.unknownOp (opField w))

/-- The opcode of a command (30_encoding.md R62). -/
def Instr.opcode : Instr → Byte
  | .writePixel _ _ _ => 0x01#8
  | .fill _ => 0x02#8
  | .readFb _ => 0x03#8
  | .convertBand _ => 0x10#8
  | .refresh => 0x20#8

/-- The command word of a well-formed command, by its format (30_encoding.md R61). -/
def encode : Instr → CmdWord
  | .writePixel x y color => 0x01#8 ++ BitVec.ofNat 16 x ++ BitVec.ofNat 16 y ++ color
  | .fill color => 0x02#8 ++ 0#16 ++ 0#16 ++ color
  | .readFb addr => 0x03#8 ++ 0#24 ++ BitVec.ofNat 32 addr
  | .convertBand rowStart => 0x10#8 ++ 0#16 ++ BitVec.ofNat 16 rowStart ++ 0#24
  | .refresh => 0x20#8 ++ 0#16 ++ 0#16 ++ 0#24

/-- The mask column of the second table of 30_encoding.md R62. -/
def Instr.mask : Instr → CmdWord
  | .writePixel _ _ _ => 0xFF00000000000000#64
  | .fill _ => 0xFFFFFFFFFF000000#64
  | .readFb _ => 0xFFFFFFFF00000000#64
  | .convertBand _ => 0xFFFFFF0000FFFFFF#64
  | .refresh => 0xFFFFFFFFFFFFFFFF#64

/-- The match column of the second table of 30_encoding.md R62. -/
def Instr.pattern : Instr → CmdWord
  | .writePixel _ _ _ => 0x0100000000000000#64
  | .fill _ => 0x0200000000000000#64
  | .readFb _ => 0x0300000000000000#64
  | .convertBand _ => 0x1000000000000000#64
  | .refresh => 0x2000000000000000#64

/-- The 64-bit word of an instruction given as the opcode table numbers its bits, of which the low
`nbits` are given and the rest are 0. The word is one 64-bit value (30_encoding.md R60). -/
def tableWord (nbits w : Nat) : CmdWord := BitVec.ofNat 64 (w % 2 ^ nbits)

/-- What the decoder reads from an instruction given by the opcode table's bits (host interface). No
command is longer than 64 bits (30_encoding.md R60). -/
def decodeTableWord (nbits w : Nat) : Option Instr :=
  if 64 < nbits then none
  else match decode (tableWord nbits w) with
    | .ok i => some i
    | .error _ => none

end Sys2Proof
end

