-- ==== Sys2Proof/Config.lean ====
section
/-! DEFINITION. The parameter record of 00_scope.md section 5 and the free values of the model.

The spec makes the parameters "arguments of the model" (00_scope.md R11). The host's step function has
no argument beside the state, so a record of this type stands in `State.params`, which no step writes
(assumption log 1): a statement about every state is a statement about every parameter set. -/

namespace Sys2Proof

/-- The parameters fixed when the block is built (00_scope.md R3, R4, R7, R8, R9). -/
structure Params where
  /-- WIDTH, pixels per row (R3). -/
  width : Nat
  /-- HEIGHT, rows (R3). -/
  height : Nat
  /-- BAND_HEIGHT, rows in one band (R4). -/
  bandHeight : Nat
  /-- CMD_COL_ADDR, left open by the spec (R7). -/
  cmdColAddr : Byte
  /-- CMD_PAGE_ADDR, left open by the spec (R7). -/
  cmdPageAddr : Byte
  /-- CMD_MEM_WRITE, left open by the spec (R7). -/
  cmdMemWrite : Byte
  /-- COL_START, left open by the spec (R8). -/
  colStart : Half
  /-- COL_END, left open by the spec (R8). -/
  colEnd : Half
  /-- OVERLAP: `true` is 1, `false` is 0, the reference behaviour (R9). -/
  overlap : Bool
  deriving DecidableEq, Repr

/-- The parameter set of the reset state: set V of 95_test_vectors.md section 2, whose BAND_HEIGHT is
the reference value 16 (00_scope.md R4) and whose OVERLAP is the spec's default 0 (R9).
DESIGN CHOICE for WIDTH and HEIGHT, PRESUMED for the panel bytes and the column window (assumption
log 2; unsafe for a claim about the reset state alone). -/
def Params.atReset : Params :=
  { width := 1, height := 32, bandHeight := 16
    cmdColAddr := 0x2A#8, cmdPageAddr := 0x2B#8, cmdMemWrite := 0x2C#8
    colStart := 0#16, colEnd := 1#16, overlap := false }

/-- The unspecified contents of FB after reset (10_state.md R36, 93 U3): the byte an address holds
from the given reset on until a command writes it. A free value: no body, so nothing can be proved of
it beyond being the same on every read (assumption log 3). -/
opaque Config.fbAtReset (run addr : Nat) : Byte

/-- The unspecified contents of STAGE after reset (10_state.md R36, 93 U4), by reset, slot and word
index. A free value (assumption log 4). -/
opaque Config.stageAtReset (run : Nat) (slot : Bool) (index : Nat) : Half

end Sys2Proof
end

