-- ==== Sys2Proof/Machine/State.lean ====
section
/-! DEFINITION. The state of the block (10_state.md), plain data, and its value after reset (R36). A one-bit
value is a Bool: `true` is 1. INVENTORY.md lists every field with the rule that names it. -/

namespace Sys2Proof.Machine

/-- The scheduler's state machine (10_state.md R24). Its binary coding is not architectural. -/
inductive Phase where
  /-- No command in progress; the command port accepts the next word. -/
  | idle
  /-- A REFRESH is in progress and the band at `row` is to be converted. -/
  | convert
  /-- OVERLAP = 0 only: the band at `row` has been converted and is to be emitted. -/
  | write
  /-- OVERLAP = 1 only: every band has been converted and the last band-writes are finishing. -/
  | drain
  deriving DecidableEq, Repr

/-- A symbol `(dc, b)` of the panel stream (30_encoding.md R70): `dc = true` is 1, a data byte;
`dc = false` is 0, a command byte. -/
structure Symbol where
  dc : Bool
  byte : Byte
  deriving DecidableEq, Repr

/-- An issued and not yet completed band-write: the pair (r, s) of 10_state.md R26. -/
structure BandWriteReq where
  row : Half
  slot : Bool
  deriving DecidableEq, Repr

/-- One thing for each of the two staging slots (10_state.md R21, R25). -/
structure TwoSlots (α : Type) where
  slot0 : α
  slot1 : α
  deriving DecidableEq, Repr

/-- A memory of `n`-bit units: the written units in rising address order, at most one entry each. An
unlisted address holds no value a command has written. At `n = 8` this is a list of `Host.Cell`. -/
abbrev Memory (n : Nat) := List (Nat × BitVec n)

/-- What the outside world does at one step: inputs of the step relation (10_state.md R30), held as data
(assumption logs 7, 8 and 9). -/
inductive Turn where
  /-- The backend accepts symbols; where producer and consumer could both move, the producer does. -/
  | producerFirst
  /-- The backend accepts symbols; where producer and consumer could both move, the consumer does. -/
  | consumerFirst
  /-- The backend accepts no symbol at this step (70_reset_and_hazards.md R175). -/
  | backendBusy
  /-- A reset arrives (70_reset_and_hazards.md R170), after the backend has accepted that many symbols
  of the frame whose band-write is next, if one is. -/
  | reset (accepted : Nat)
  deriving DecidableEq, Repr

/-- A status code of 60_exceptions.md R150, by name. -/
inductive Status where
  /-- OK: the command was carried out. -/
  | ok
  /-- ILLEGAL_CMD: the word decodes to no command (R151). -/
  | illegalCmd
  /-- COORD_OUT_OF_RANGE, of WRITE_PIXEL (R152). -/
  | coordOutOfRange
  /-- ROW_OUT_OF_RANGE, of CONVERT_BAND (R153). -/
  | rowOutOfRange
  /-- ADDR_OUT_OF_RANGE, of READ_FB (R154). -/
  | addrOutOfRange
  deriving DecidableEq, Repr

/-- The whole machine. -/
structure State where
  /-- The parameter record (00_scope.md R11); no step writes it (assumption log 1). -/
  params : Params
  /-- FB (10_state.md R20). -/
  fb : Memory 8
  /-- STAGE[0] and STAGE[1] (10_state.md R21). -/
  stage : TwoSlots (Memory 16)
  /-- `sel`, the toggling index (10_state.md R22). -/
  sel : Bool
  /-- `row` (10_state.md R23). -/
  row : Half
  /-- `phase` (10_state.md R24). -/
  phase : Phase
  /-- `inflight[0]` and `inflight[1]` (10_state.md R25). -/
  inflight : TwoSlots Bool
  /-- `pending`, oldest first (10_state.md R26). -/
  pending : List BandWriteReq
  /-- PANEL_OUT, in emission order (10_state.md R29). -/
  panelOut : List Symbol
  /-- RSP_OUT, in command order (10_state.md R29). -/
  rspOut : List Half
  /-- The words the host presents and the block has not taken yet, in order: the command port holds a
  word presented while `phase` is not IDLE (20_memory.md R50; assumption log 6). -/
  cmdIn : List CmdWord
  /-- What the outside world does at the coming steps; once empty, every turn is `producerFirst`
  (assumption log 7). -/
  turns : List Turn
  /-- How many reset events the block has seen since the start of the run: the counter the free values
  of FB and STAGE are applied to (assumption log 5). -/
  run : Nat
  deriving DecidableEq, Repr

/-- States in which the spec enables no step. None is reachable: `Inv` (Safety.lean) rules them out. Each
is safe: the model stops where the spec gives the block no step (assumption log 11). -/
inductive Fault where
  /-- A band conversion outside the producer's own hold met a slot that is in flight, which it must not
  write (70_reset_and_hazards.md R173). Raised by the band conversion. Safe. -/
  | slotInFlight
  /-- A band of the scheduler would pass the bottom edge, against the precondition of ConvertBand
  (41_band_converter.md R105). Raised by the band conversion and the band-write. Safe. -/
  | bandOutsideFrame
  /-- `phase` is WRITE with OVERLAP = 1 or DRAIN with OVERLAP = 0 (10_state.md R24). Raised by the
  scheduler step. Safe. -/
  | phaseOfOtherVariant
  /-- With OVERLAP = 1 the producer holds and nothing is pending, so neither agent has a step
  (42_transfer_scheduler.md R132, R133). Raised by the scheduler step. Safe. -/
  | noStepEnabled
  deriving DecidableEq, Repr

/-- What the model refuses. -/
inductive Refusal where
  /-- The instruction has no meaning in the model yet. Raised by no arm: every instruction has its
  meaning. Safe. -/
  | notModelled (mnemonic : String)
  /-- The parameter set is not legal: "not a legal instance of the block and a model refuses it"
  (00_scope.md R5, R6, R11). Raised by `step`. Safe (assumption log 10). -/
  | illegalParameters
  deriving DecidableEq, Repr

/-- The state right after reset for a parameter set (10_state.md R36, 70_reset_and_hazards.md R171). FB and
STAGE list nothing: their contents are unspecified. -/
def State.resetWith (p : Params) : State :=
  { params := p
    fb := []
    stage := ⟨[], []⟩
    sel := false
    row := 0#16
    phase := .idle
    inflight := ⟨false, false⟩
    pending := []
    panelOut := []
    rspOut := []
    cmdIn := []
    turns := []
    run := 0 }

/-- The machine right after reset. The spec fixes no parameter set; the model names one (assumption log 2). -/
def State.reset : State := State.resetWith Params.atReset

end Sys2Proof.Machine
end

