-- ==== Sys2Proof/Machine/Flags.lean ====
section
/-! DEFINITION. Status codes and the response word. The block has no flags, condition codes or predicates
(10_state.md R34) and no status register (R28): the outcome of a command is the status byte of its one
response word (30_encoding.md R67, R68), and the only status-like bits are the two `inflight` bits. -/

namespace Sys2Proof.Machine

/-- The status code of 60_exceptions.md R150 (30_encoding.md R67). -/
def statusCode : Status → Byte
  | .ok => 0x00#8
  | .illegalCmd => 0x01#8
  | .coordOutOfRange => 0x02#8
  | .rowOutOfRange => 0x03#8
  | .addrOutOfRange => 0x04#8

/-- The response word `st ‖ d`: bits 15:8 the status code, bits 7:0 the data byte (30_encoding.md R68). -/
def responseWord (st : Status) (data : Byte) : Half := statusCode st ++ data

end Sys2Proof.Machine
end

