-- ==== Sys2Proof/Machine/Geometry.lean ====
section
/-! DEFINITION. Derived constants, address arithmetic and the legality of a parameter set
(00_scope.md R3 to R6, R11; 20_memory.md R41, R44). All on naturals, with no wrap-around (R6). -/

namespace Sys2Proof

/-- `NB = HEIGHT / BAND_HEIGHT`, bands per frame (00_scope.md R6). -/
def Params.bands (p : Params) : Nat := p.height / p.bandHeight

/-- `FB_BYTES = WIDTH * HEIGHT * 3` (00_scope.md R6). -/
def Params.fbBytes (p : Params) : Nat := p.width * p.height * 3

/-- `BAND_PIXELS = WIDTH * BAND_HEIGHT` (00_scope.md R6). -/
def Params.bandPixels (p : Params) : Nat := p.width * p.bandHeight

/-- `BAND_BYTES = 2 * BAND_PIXELS` (00_scope.md R6). -/
def Params.bandBytes (p : Params) : Nat := 2 * p.bandPixels

/-- A legal parameter set (00_scope.md R11): the ranges of R3 and R4, the exact multiple of R5 and the
bound on FB_BYTES of R6. -/
abbrev Params.Legal (p : Params) : Prop :=
  1 ≤ p.width ∧ p.width ≤ 65535 ∧ 1 ≤ p.height ∧ p.height ≤ 65535 ∧
  1 ≤ p.bandHeight ∧ p.bandHeight ≤ p.height ∧ p.height % p.bandHeight = 0 ∧
  p.fbBytes ≤ 2 ^ 32

/-- `PixOff(x, y) = (y * WIDTH + x) * 3` (20_memory.md R41). -/
def Params.pixOff (p : Params) (x y : Nat) : Nat := (y * p.width + x) * 3

/-- The index of column `i` of band row `j` in a staging slot: `j * WIDTH + i` (20_memory.md R44). -/
def Params.stageIndex (p : Params) (j i : Nat) : Nat := j * p.width + i

/-- The slot the band whose first row is `r` uses inside a REFRESH: the parity of the number of bands
above it (10_state.md R37, 42_transfer_scheduler.md R130). `true` is slot 1. -/
def Params.bandSlot (p : Params) (r : Nat) : Bool := r / p.bandHeight % 2 == 1

end Sys2Proof
end

