-- ==== Sys2Proof/Machine/Operands.lean ====
section
/-! DEFINITION. The operand checks and the parts of the operands (30_encoding.md R65): every operand is an
unsigned number, compared as a natural. -/

namespace Sys2Proof.Machine

/-- A pixel of the frame: `x < WIDTH` and `y < HEIGHT` (40_framebuffer_store.md R80, 60_exceptions.md R152). -/
abbrev PixelInRange (p : Params) (x y : Nat) : Prop := x < p.width ∧ y < p.height

/-- A byte address of FB: `addr < FB_BYTES` (20_memory.md R42, 60_exceptions.md R154). -/
abbrev AddrInRange (p : Params) (addr : Nat) : Prop := addr < p.fbBytes

/-- A row with a whole band below it: `row_start + BAND_HEIGHT <= HEIGHT`, the sum on naturals
(41_band_converter.md R106, R109; 60_exceptions.md R153). -/
abbrev BandInRange (p : Params) (rowStart : Nat) : Prop := rowStart + p.bandHeight ≤ p.height

/-- `R = c[23:16]` (20_memory.md R43). -/
def red (c : Color) : Byte := c.extractLsb' 16 8
/-- `G = c[15:8]` (20_memory.md R43). -/
def green (c : Color) : Byte := c.extractLsb' 8 8
/-- `B = c[7:0]` (20_memory.md R43). -/
def blue (c : Color) : Byte := c.extractLsb' 0 8

end Sys2Proof.Machine
end

