-- ==== Sys2Proof/Machine/Ops.lean ====
section
/-! DEFINITION. The named operations over the memories, the ports and the registers: the primitives of
00_scope.md section 7, the conversion functions of 41_band_converter.md R100 to R102, the frame of
42_transfer_scheduler.md R126, and `raise` (60_exceptions.md R160), the block's only "exception". There is
no return-from-error operation (R161). -/

namespace Sys2Proof.Machine

/-! ### The two slots -/

/-- Element `s` of a pair of slots: STAGE[s], `inflight[s]` (10_state.md R21, R25). -/
def TwoSlots.get {α : Type} (t : TwoSlots α) (slot : Bool) : α :=
  match slot with
  | false => t.slot0
  | true => t.slot1

/-- Writing element `s` of a pair of slots; the other element stays. -/
def TwoSlots.set {α : Type} (t : TwoSlots α) (slot : Bool) (v : α) : TwoSlots α :=
  match slot with
  | false => { t with slot0 := v }
  | true => { t with slot1 := v }

/-! ### A memory in canonical form -/

/-- The value a command has written at an address; `none` where none has. -/
def Memory.read {n : Nat} : Memory n → Nat → Option (BitVec n)
  | [], _ => none
  | (b, v) :: rest, a => if a = b then some v else Memory.read rest a

/-- Writing one unit, keeping the addresses in rising order. -/
def Memory.write {n : Nat} : Memory n → Nat → BitVec n → Memory n
  | [], a, v => [(a, v)]
  | (b, u) :: rest, a, v =>
    if a < b then (a, v) :: (b, u) :: rest
    else if a = b then (a, v) :: rest
    else (b, u) :: Memory.write rest a v

/-- The listed addresses rise strictly, from `lo` on and below `hi`. -/
def Memory.within {n : Nat} : Nat → Nat → Memory n → Bool
  | _, _, [] => true
  | lo, hi, (a, _) :: rest => decide (lo ≤ a) && decide (a < hi) && Memory.within (a + 1) hi rest

/-- The canonical form of a memory of `size` units: addresses strictly rising, all below `size`. (An
unlisted address holds no written value, so no entry can equal what it reads as.) -/
def Memory.wf {n : Nat} (size : Nat) (m : Memory n) : Bool := Memory.within 0 size m

/-! ### FB and STAGE (00_scope.md section 7) -/

/-- `FbRead(a)`: the byte FB[a], no side effect. A byte no command has written since reset is unspecified,
the same on every read (10_state.md R36, 40_framebuffer_store.md R82). -/
def fbRead (s : State) (a : Nat) : Byte := (Memory.read s.fb a).getD (Config.fbAtReset s.run a)

/-- `FbWrite(a, b)`: FB[a] <- b. -/
def fbWrite (s : State) (a : Nat) (b : Byte) : State := { s with fb := Memory.write s.fb a b }

/-- The three bytes of a colour at rising addresses, red first (20_memory.md R43). -/
def fbWritePixel (s : State) (a : Nat) (c : Color) : State :=
  fbWrite (fbWrite (fbWrite s a (red c)) (a + 1) (green c)) (a + 2) (blue c)

/-- Every pixel of FB to one colour, in rising order (40_framebuffer_store.md R81; assumption log 15). -/
def fbFill (s : State) (c : Color) : State :=
  (List.range (s.params.width * s.params.height)).foldl (fun t p => fbWritePixel t (3 * p) c) s

/-- `StageRead(s, p)`: the word STAGE[s][p]. A word no conversion has written since reset is unspecified
(10_state.md R36). -/
def stageRead (s : State) (slot : Bool) (p : Nat) : Half :=
  (Memory.read (s.stage.get slot) p).getD (Config.stageAtReset s.run slot p)

/-- `StageWrite(s, p, w)`: STAGE[s][p] <- w. -/
def stageWrite (s : State) (slot : Bool) (p : Nat) (w : Half) : State :=
  { s with stage := s.stage.set slot (Memory.write (s.stage.get slot) p w) }

/-! ### Pixel conversion (41_band_converter.md section 1) -/

/-- `hi8(v) = v[15:8]` (00_scope.md section 6). -/
def hi8 (v : Half) : Byte := v.extractLsb' 8 8
/-- `lo8(v) = v[7:0]` (00_scope.md section 6). -/
def lo8 (v : Half) : Byte := v.extractLsb' 0 8

/-- `Pack565(r, g, b) = r[7:3] ‖ g[7:2] ‖ b[7:3]` (41_band_converter.md R100). -/
def pack565 (r g b : Byte) : Half := r.extractLsb' 3 5 ++ g.extractLsb' 2 6 ++ b.extractLsb' 3 5

/-- `Swap16(v) = v[7:0] ‖ v[15:8]` (41_band_converter.md R101). -/
def swap16 (v : Half) : Half := lo8 v ++ hi8 v

/-- `Native(r, g, b) = Swap16(Pack565(r, g, b))` (41_band_converter.md R102). -/
def native (r g b : Byte) : Half := swap16 (pack565 r g b)

/-- The native pixel of the three FB bytes at an address (41_band_converter.md R105). -/
def nativeAt (s : State) (a : Nat) : Half := native (fbRead s a) (fbRead s (a + 1)) (fbRead s (a + 2))

/-! ### Band conversion (41_band_converter.md R105) -/

/-- The conversion of the pixel at column `i` of row `j` of the band at `r` into a slot. -/
def convertPixel (r : Nat) (slot : Bool) (j : Nat) (s : State) (i : Nat) : State :=
  stageWrite s slot (s.params.stageIndex j i) (nativeAt s (s.params.pixOff i (r + j)))

/-- One row of the band. -/
def convertRow (r : Nat) (slot : Bool) (s : State) (j : Nat) : State :=
  (List.range s.params.width).foldl (convertPixel r slot j) s

/-- The two loops of `ConvertBand(r, s)` (41_band_converter.md R105; order: assumption log 15). -/
def convertRows (r : Nat) (slot : Bool) (s : State) : State :=
  (List.range s.params.bandHeight).foldl (convertRow r slot) s

/-- `ConvertBand(r, s)` with its precondition (41_band_converter.md R105): the slot is not in flight
(70_reset_and_hazards.md R173) and the band lies in the frame. -/
def convertBand (r : Nat) (slot : Bool) (s : State) : Host.Outcome State Fault Refusal :=
  if s.inflight.get slot then .fault .slotInFlight
  else if BandInRange s.params r then .next (convertRows r slot s)
  else .fault .bandOutsideFrame

/-! ### The panel port -/

/-- `Emit`, for a list of symbols in order (30_encoding.md R70, 20_memory.md R55). -/
def emit (syms : List Symbol) (s : State) : State := { s with panelOut := s.panelOut ++ syms }

/-- The symbol of a command byte, `dc = 0` (30_encoding.md R70). -/
def cmdSymbol (b : Byte) : Symbol := ⟨false, b⟩
/-- The symbol of a data byte, `dc = 1` (30_encoding.md R70). -/
def dataSymbol (b : Byte) : Symbol := ⟨true, b⟩

/-- `EmitAddr(v)`: high byte first (30_encoding.md R71). -/
def addrSymbols (v : Half) : List Symbol := [dataSymbol (hi8 v), dataSymbol (lo8 v)]

/-- The end of the page window, `row + BAND_HEIGHT` as it stands (42_transfer_scheduler.md R127). -/
def pageEnd (p : Params) (r : Half) : Half := BitVec.ofNat 16 (r.toNat + p.bandHeight)

/-- Steps 1 to 3 of the band-write: the symbols 0 to 10 of the frame (42_transfer_scheduler.md R125, R126). -/
def frameHeader (p : Params) (r : Half) : List Symbol :=
  [cmdSymbol p.cmdColAddr] ++ addrSymbols p.colStart ++ addrSymbols p.colEnd ++
  [cmdSymbol p.cmdPageAddr] ++ addrSymbols r ++ addrSymbols (pageEnd p r) ++
  [cmdSymbol p.cmdMemWrite]

/-- A staging word on the wire: the low byte of the stored word first (20_memory.md R45). -/
def wordSymbols (w : Half) : List Symbol := [dataSymbol (lo8 w), dataSymbol (hi8 w)]

/-- Step 4 of the band-write: the words of a slot in index order (42_transfer_scheduler.md R126). -/
def slotSymbols (s : State) (slot : Bool) : List Symbol :=
  (List.range s.params.bandPixels).flatMap fun p => wordSymbols (stageRead s slot p)

/-- The frame of the band whose first row is `r`, from a slot (42_transfer_scheduler.md R126). -/
def frame (s : State) (r : Half) (slot : Bool) : List Symbol :=
  frameHeader s.params r ++ slotSymbols s slot

/-- `BandWrite(r, s)` (42_transfer_scheduler.md R126). Its page values fit 16 bits because the band lies in
the frame. The backend's results are not read (R128). -/
def bandWrite (r : Half) (slot : Bool) (s : State) : Host.Outcome State Fault Refusal :=
  if BandInRange s.params r.toNat then .next (emit (frame s r slot) s) else .fault .bandOutsideFrame

/-! ### The response port -/

/-- `Respond(st, d)`: appends the response word and returns `phase` to IDLE (30_encoding.md R68). -/
def respond (st : Status) (data : Byte) (s : State) : State :=
  { s with rspOut := s.rspOut ++ [responseWord st data], phase := .idle }

/-- `raise E`: `Respond(code(E), 0x00)` and no other state change (60_exceptions.md R160, R157). -/
def raise (e : Status) (s : State) : State := respond e 0x00#8 s

/-! ### The registers of the scheduler -/

/-- `inflight[s] <- v` (10_state.md R25). -/
def setInflight (slot : Bool) (v : Bool) (s : State) : State :=
  { s with inflight := s.inflight.set slot v }

/-- `sel <- sel XOR 1; row <- row + BAND_HEIGHT` (42_transfer_scheduler.md R122, R132). -/
def advanceBand (s : State) : State :=
  { s with sel := Bool.xor s.sel true, row := BitVec.ofNat 16 (s.row.toNat + s.params.bandHeight) }

/-- Running one operation after another: a stop of the first is a stop of the whole. -/
def andThen (o : Host.Outcome State Fault Refusal) (f : State → Host.Outcome State Fault Refusal) :
    Host.Outcome State Fault Refusal :=
  match o with
  | .next s => f s
  | .fault e => .fault e
  | .refused e => .refused e

/-! ### The command port and reset -/

/-- The turn of this step, and the state with that turn taken (assumption log 7). -/
def takeTurn (s : State) : Turn × State :=
  match s.turns with
  | [] => (.producerFirst, s)
  | t :: rest => (t, { s with turns := rest })

/-- The next word on the command port, taken off it (20_memory.md R50). -/
def takeCommand (s : State) : Option (CmdWord × State) :=
  match s.cmdIn with
  | [] => none
  | w :: rest => some (w, { s with cmdIn := rest })

/-- The band whose band-write is the next emission, if one is due: the band at `row` in phase WRITE, the
oldest entry of `pending` with OVERLAP = 1. -/
def nextFrame (s : State) : List Symbol :=
  match s.params.overlap with
  | false => if s.phase = .write then frame s s.row s.sel else []
  | true => match s.pending with
    | [] => []
    | e :: _ => frame s e.row e.slot

/-- The reset event (70_reset_and_hazards.md R170): every piece of state to its value of 10_state.md R36.
Symbols already emitted stay emitted, a frame in progress is cut short after the symbols the backend has
accepted, and no response is produced for the abandoned command (assumption log 9). -/
def resetEvent (accepted : Nat) (s : State) : State :=
  { State.resetWith s.params with
    panelOut := s.panelOut ++ (nextFrame s).take accepted
    rspOut := s.rspOut
    cmdIn := s.cmdIn
    turns := s.turns
    run := s.run + 1 }

end Sys2Proof.Machine
end

