-- ==== Sys2Proof/Machine/BandConverter.lean ====
section
/-! DEFINITION. The Band Converter command CONVERT_BAND (41_band_converter.md R106). -/

namespace Sys2Proof.Machine

/-- CONVERT_BAND row_start (41_band_converter.md R106): the range check comes before any write; the band
goes to STAGE[sel] (R104). -/
def execConvertBand (rowStart : Nat) (s : State) : Host.Outcome State Fault Refusal :=
  if BandInRange s.params rowStart then
    andThen (convertBand rowStart s.sel s) fun t => .next (respond .ok 0x00#8 t)
  else .next (raise .rowOutOfRange s)

end Sys2Proof.Machine
end

