-- ==== Sys2Proof/Machine/FramebufferStore.lean ====
section
/-! DEFINITION. The Framebuffer Store commands: WRITE_PIXEL, FILL, READ_FB (40_framebuffer_store.md). -/

namespace Sys2Proof.Machine

/-- WRITE_PIXEL x, y, color (40_framebuffer_store.md R80): the range check comes before any write. -/
def execWritePixel (x y : Nat) (color : Color) (s : State) : Host.Outcome State Fault Refusal :=
  if PixelInRange s.params x y then
    .next (respond .ok 0x00#8 (fbWritePixel s (s.params.pixOff x y) color))
  else .next (raise .coordOutOfRange s)

/-- FILL color (40_framebuffer_store.md R81). -/
def execFill (color : Color) (s : State) : Host.Outcome State Fault Refusal :=
  .next (respond .ok 0x00#8 (fbFill s color))

/-- READ_FB addr (40_framebuffer_store.md R82). -/
def execReadFb (addr : Nat) (s : State) : Host.Outcome State Fault Refusal :=
  if AddrInRange s.params addr then .next (respond .ok (fbRead s addr) s)
  else .next (raise .addrOutOfRange s)

end Sys2Proof.Machine
end

