-- ==== Sys2Proof/Machine/TransferScheduler.lean ====
section
/-! DEFINITION. The Transfer Scheduler: REFRESH (42_transfer_scheduler.md R120) and the steps that carry it
out, R121 to R123 with OVERLAP = 0 and R132, R133, R135 with OVERLAP = 1. -/

namespace Sys2Proof.Machine

/-- REFRESH: its acceptance (42_transfer_scheduler.md R120). The scheduler's steps do the rest. -/
def execRefresh (s : State) : Host.Outcome State Fault Refusal :=
  .next { s with row := 0#16, sel := false, phase := .convert }

/-- The convert step (42_transfer_scheduler.md R121). -/
def convertStep (s : State) : Host.Outcome State Fault Refusal :=
  andThen (convertBand s.row.toNat s.sel s) fun t => .next { t with phase := .write }

/-- The loop test at the end of the write step, and completion (42_transfer_scheduler.md R122, R123). -/
def loopTest (s : State) : State :=
  if s.row.toNat < s.params.height then { s with phase := .convert } else respond .ok 0x00#8 s

/-- The write step, one indivisible step (42_transfer_scheduler.md R122). -/
def writeStep (s : State) : Host.Outcome State Fault Refusal :=
  andThen (bandWrite s.row s.sel (setInflight s.sel true s)) fun t =>
    .next (loopTest (advanceBand (setInflight s.sel false t)))

/-- Issuing a band-write: `inflight[s] <- 1; pending.push((r, s))` (42_transfer_scheduler.md R132). -/
def issueBandWrite (r : Half) (slot : Bool) (s : State) : State :=
  { setInflight slot true s with pending := s.pending ++ [⟨r, slot⟩] }

/-- The producer's last assignment: `if row >= HEIGHT: phase <- DRAIN` (42_transfer_scheduler.md R132). -/
def drainTest (s : State) : State :=
  if s.params.height ≤ s.row.toNat then { s with phase := .drain } else s

/-- The producer step (42_transfer_scheduler.md R132). -/
def producerStep (s : State) : Host.Outcome State Fault Refusal :=
  andThen (convertBand s.row.toNat s.sel s) fun t =>
    .next (drainTest (advanceBand (issueBandWrite s.row s.sel t)))

/-- The consumer step for the oldest entry `e` with the entries `rest` behind it
(42_transfer_scheduler.md R133). -/
def consumerStep (e : BandWriteReq) (rest : List BandWriteReq) (s : State) :
    Host.Outcome State Fault Refusal :=
  andThen (bandWrite e.row e.slot s) fun t =>
    .next (setInflight e.slot false { t with pending := rest })

/-- The producer has a step: `phase = CONVERT` and `inflight[sel] = 0` (42_transfer_scheduler.md R132). -/
def producerEnabled (s : State) : Bool := decide (s.phase = .convert) && !s.inflight.get s.sel

/-- One step of the block with OVERLAP = 1 during a REFRESH. With nothing pending: the producer, or
completion in DRAIN (42_transfer_scheduler.md R135). With a band-write pending: the agent the turn names
if it has a step, else the other; where only a band-write is left and the backend takes nothing, the
block waits (70_reset_and_hazards.md R175). -/
def overlapStep (turn : Turn) (s : State) : Host.Outcome State Fault Refusal :=
  match s.pending with
  | [] =>
    if producerEnabled s then producerStep s
    else if s.phase = .drain then .next (respond .ok 0x00#8 s)
    else .fault .noStepEnabled
  | e :: rest =>
    if turn = .backendBusy then
      if producerEnabled s then producerStep s else .next s
    else if turn = .consumerFirst then consumerStep e rest s
    else if producerEnabled s then producerStep s else consumerStep e rest s

/-- One step of the scheduler while a REFRESH is in progress, by `phase` and OVERLAP (10_state.md R24). -/
def refreshStep (turn : Turn) (s : State) : Host.Outcome State Fault Refusal :=
  match s.phase, s.params.overlap with
  | .idle, _ => .next s
  | .convert, false => convertStep s
  | .write, false => if turn = .backendBusy then .next s else writeStep s
  | .convert, true => overlapStep turn s
  | .drain, true => overlapStep turn s
  | .write, true => .fault .phaseOfOtherVariant
  | .drain, false => .fault .phaseOfOtherVariant

end Sys2Proof.Machine
end

