-- ==== Sys2Proof/Machine/Dispatch.lean ====
section
/-! DEFINITION. One arm per command (30_encoding.md R62). -/

namespace Sys2Proof.Machine

def exec (i : Instr) (s : State) : Host.Outcome State Fault Refusal :=
  match i with
  | .writePixel x y color => Sys2Proof.Machine.execWritePixel x y color s
  | .fill color => Sys2Proof.Machine.execFill color s
  | .readFb addr => Sys2Proof.Machine.execReadFb addr s
  | .convertBand rowStart => Sys2Proof.Machine.execConvertBand rowStart s
  | .refresh => Sys2Proof.Machine.execRefresh s

end Sys2Proof.Machine
end

