-- ==== Sys2Proof/Machine/Step.lean ====
section
/-! DEFINITION. One step of the block. -/

namespace Sys2Proof.Machine

/-- The effect of a word taken from the command port: the command it decodes to, or
`raise IllegalCommand` (30_encoding.md R64, 60_exceptions.md R151). -/
def runWord (w : CmdWord) (s : State) : Host.Outcome State Fault Refusal :=
  match decode w with
  | .ok i => exec i s
  | .error _ => .next (raise .illegalCmd s)

/-- The block in IDLE: it takes the next command word; with none presented it keeps its state
(20_memory.md R50, 60_exceptions.md R166). -/
def idleStep (s : State) : Host.Outcome State Fault Refusal :=
  match takeCommand s with
  | none => .next s
  | some (w, t) => runWord w t

/-- One step under a turn of the outside world. -/
def turnStep (turn : Turn) (s : State) : Host.Outcome State Fault Refusal :=
  match turn with
  | .reset accepted => .next (resetEvent accepted s)
  | _ => if s.phase = .idle then idleStep s else refreshStep turn s

/-- One step of the block. An illegal parameter set is refused (00_scope.md R11). -/
def step (s : State) : Host.Outcome State Fault Refusal :=
  if s.params.Legal then turnStep (takeTurn s).1 (takeTurn s).2
  else .refused .illegalParameters

/-- `s` with a command word at the head of the command port of a block in IDLE with no turn of the
outside world set, so that the next step takes and runs it (assumption log 16). -/
def State.withFetchWord (s : State) (nbits w : Nat) : State :=
  { s with cmdIn := tableWord nbits w :: s.cmdIn, phase := .idle, turns := [] }

end Sys2Proof.Machine
end

