-- ==== Sys2Proof/Machine/Assembler.lean ====
section
/-! DEFINITION. The textual form of a command (30_encoding.md R73): its mnemonic, then its operands separated
by commas, one command per line; numbers decimal or `0x` hexadecimal; `#` starts a comment that runs to
the end of the line. There are no pseudo-instructions and no aliases (R74). A line is a list of
characters. What R73 leaves open about blanks and letter case is in assumption log 17. -/

namespace Sys2Proof.Machine

/-- Why a line is no command. Every reason is an assembler error; none changes the machine. -/
inductive AsmError where
  /-- The first word is none of the five mnemonics. -/
  | unknownMnemonic
  /-- An operand is neither a decimal nor a `0x` hexadecimal number. -/
  | badNumber
  /-- The command takes another number of operands. -/
  | operandCount
  /-- An operand does not fit its field: "an assembler error, not a truncation" (R73). -/
  | operandTooWide
  deriving DecidableEq, Repr

/-- Space, tab and carriage return separate the parts of a line (assumption log 17). -/
def isBlank (c : Char) : Bool := c == ' ' || c == '\t' || c == '\r'

/-- A list of characters without the blanks at its two ends. -/
def trimBlanks (cs : List Char) : List Char :=
  ((cs.dropWhile isBlank).reverse.dropWhile isBlank).reverse

/-- The parts of a list of characters between the commas. -/
def splitCommas : List Char → List (List Char)
  | [] => [[]]
  | c :: rest =>
    if c == ',' then [] :: splitCommas rest
    else match splitCommas rest with
      | [] => [[c]]
      | part :: parts => (c :: part) :: parts

/-- The value of a digit in a base of at most 16; capital and small hexadecimal letters alike. -/
def digitValue (base : Nat) (c : Char) : Option Nat :=
  let n := c.toNat
  let v := if 48 ≤ n ∧ n ≤ 57 then n - 48
    else if 65 ≤ n ∧ n ≤ 70 then n - 55
    else if 97 ≤ n ∧ n ≤ 102 then n - 87
    else base
  if v < base then some v else none

/-- The number a list of digits spells after `acc`. -/
def digitsValue (base : Nat) : List Char → Nat → Option Nat
  | [], acc => some acc
  | c :: rest, acc =>
    match digitValue base c with
    | some v => digitsValue base rest (acc * base + v)
    | none => none

/-- A number: `0x` and hexadecimal digits, or decimal digits, at least one (R73). -/
def parseNumber (cs : List Char) : Option Nat :=
  match cs with
  | [] => none
  | '0' :: 'x' :: d :: rest => digitsValue 16 (d :: rest) 0
  | d :: rest => digitsValue 10 (d :: rest) 0

/-- All the numbers of a list, or none if one of them is no number. -/
def parseNumbers : List (List Char) → Option (List Nat)
  | [] => some []
  | part :: parts =>
    match parseNumber (trimBlanks part), parseNumbers parts with
    | some v, some vs => some (v :: vs)
    | _, _ => none

/-- The operands of a command: none where nothing stands after the mnemonic. -/
def parseOperands (cs : List Char) : Option (List Nat) :=
  match cs with
  | [] => some []
  | _ => parseNumbers (splitCommas cs)

/-- A command whose operands fit their fields, the colour's width checked before it becomes one. -/
def checkOperands (i : Instr) (colorFits : Bool) : Except AsmError Instr :=
  if i.wellFormed && colorFits then .ok i else .error .operandTooWide

/-- The colour operand as a field of 24 bits, for a number that fits. -/
def colorOperand (n : Nat) : Color := BitVec.ofNat 24 n

/-- Whether a number fits the 24-bit field `color` (R61). -/
def colorFits (n : Nat) : Bool := decide (n < 2 ^ 24)

/-- The command of a mnemonic and its operands (R73). -/
def assemble (mnemonic : List Char) (operands : List Nat) : Except AsmError Instr :=
  if mnemonic = "WRITE_PIXEL".toList then
    match operands with
    | [x, y, c] => checkOperands (.writePixel x y (colorOperand c)) (colorFits c)
    | _ => .error .operandCount
  else if mnemonic = "FILL".toList then
    match operands with
    | [c] => checkOperands (.fill (colorOperand c)) (colorFits c)
    | _ => .error .operandCount
  else if mnemonic = "READ_FB".toList then
    match operands with
    | [addr] => checkOperands (.readFb addr) true
    | _ => .error .operandCount
  else if mnemonic = "CONVERT_BAND".toList then
    match operands with
    | [rowStart] => checkOperands (.convertBand rowStart) true
    | _ => .error .operandCount
  else if mnemonic = "REFRESH".toList then
    match operands with
    | [] => .ok .refresh
    | _ => .error .operandCount
  else .error .unknownMnemonic

/-- One line: a command, nothing (a blank or comment line), or an error. -/
def assembleLine (line : List Char) : Except AsmError (Option Instr) :=
  let text := trimBlanks (line.takeWhile (· != '#'))
  if text.isEmpty then .ok none
  else
    match parseOperands (trimBlanks (text.dropWhile (!isBlank ·))) with
    | none => .error .badNumber
    | some operands =>
      match assemble (text.takeWhile (!isBlank ·)) operands with
      | .ok i => .ok (some i)
      | .error e => .error e

end Sys2Proof.Machine
end

