-- ==== Sys2Proof/Safety.lean ====
section
/-! DEFINITION. What a good state and a safe run are: the invariant of the machine (10_state.md R37,
42_transfer_scheduler.md R124, R132 to R134), and a run that stops nowhere. -/

namespace Sys2Proof.Machine

/-- The three FB bytes of pixel `q` of the band at row `r`, converted: the right side of the whole-band form
of 41_band_converter.md R105. -/
def bandPixel (s : State) (r q : Nat) : Half := nativeAt s (3 * (r * s.params.width + q))

/-- Slot `slot` has been written in full and holds the conversion of the band at row `r` from FB as it stands
(41_band_converter.md R105, 42_transfer_scheduler.md R134). -/
def HoldsBand (s : State) (slot : Bool) (r : Nat) : Prop :=
  ∀ q, q < s.params.bandPixels →
    Memory.read (s.stage.get slot) q = some (bandPixel s r q)

/-- `pending` is the last bands before `row`, at most two, oldest first, each with the slot of its band
(10_state.md R26, 42_transfer_scheduler.md R132). -/
def PendingBands (p : Params) (row : Nat) : List BandWriteReq → Prop
  | [] => True
  | [a] => a.row.toNat + p.bandHeight = row ∧ a.slot = p.bandSlot a.row.toNat ∧
      p.bandHeight ∣ a.row.toNat
  | [a, b] => a.row.toNat + p.bandHeight = b.row.toNat ∧ b.row.toNat + p.bandHeight = row ∧
      a.slot = p.bandSlot a.row.toNat ∧ b.slot = p.bandSlot b.row.toNat ∧
      p.bandHeight ∣ a.row.toNat
  | _ => False

/-- The invariant of the machine. -/
structure Inv (s : State) : Prop where
  /-- The parameter set is legal (00_scope.md R11). -/
  legal : s.params.Legal
  /-- FB is in canonical form and lists no address at or above FB_BYTES (20_memory.md R42). -/
  fbWf : Memory.wf s.params.fbBytes s.fb = true
  /-- Each slot is in canonical form and lists no index at or above BAND_PIXELS (10_state.md R21). -/
  stageWf : ∀ slot, Memory.wf s.params.bandPixels (s.stage.get slot) = true
  /-- `row` is a multiple of BAND_HEIGHT (10_state.md R37). -/
  rowAligned : s.params.bandHeight ∣ s.row.toNat
  /-- `0 <= row <= HEIGHT` (10_state.md R37). -/
  rowInFrame : s.row.toNat ≤ s.params.height
  /-- IDLE: nothing pending, nothing in flight (10_state.md R37). -/
  idleQuiet : s.phase = .idle → s.pending = [] ∧ ∀ slot, s.inflight.get slot = false
  /-- OVERLAP = 0: no `pending`, both `inflight` bits 0 at every step boundary (R37), no DRAIN (R24). -/
  sequentialQuiet : s.params.overlap = false →
    s.pending = [] ∧ (∀ slot, s.inflight.get slot = false) ∧ s.phase ≠ .drain
  /-- OVERLAP = 1: no WRITE (10_state.md R24). -/
  overlapPhase : s.params.overlap = true → s.phase ≠ .write
  /-- In the loop the band at `row` lies in the frame (42_transfer_scheduler.md R124). -/
  loopRow : s.phase = .convert ∨ s.phase = .write → BandInRange s.params s.row.toNat
  /-- In DRAIN every band has been converted (10_state.md R24). -/
  drainRow : s.phase = .drain → s.row.toNat = s.params.height
  /-- During a REFRESH `sel` is the parity of the number of bands done (10_state.md R37). -/
  selParity : s.phase ≠ .idle → s.sel = s.params.bandSlot s.row.toNat
  /-- The pending band-writes are those of the last bands before `row`. -/
  pendingBands : PendingBands s.params s.row.toNat s.pending
  /-- A slot is in flight exactly while a band-write of it is pending (10_state.md R25, R26). -/
  inflightPending : ∀ slot, s.inflight.get slot = s.pending.any fun e => e.slot == slot
  /-- In WRITE the slot to be emitted holds its band (42_transfer_scheduler.md R134). -/
  writeHolds : s.phase = .write → HoldsBand s s.sel s.row.toNat
  /-- Every slot in flight holds its band until it has been emitted (42_transfer_scheduler.md R133, R134). -/
  pendingHolds : ∀ e ∈ s.pending, HoldsBand s e.slot e.row.toNat

/-- A run that never stops: no fault and no refusal after any number of steps. -/
def Safe (s : State) : Prop := ∀ n, ∃ t, Host.Core.run core n s = .next t

/-- At most `n` steps, stopping as soon as the block is in IDLE: the steps by which a REFRESH that has been
accepted is carried out. -/
def runToIdle : Nat → State → Host.Outcome State Fault Refusal
  | 0, s => .next s
  | n + 1, s => if s.phase = .idle then .next s else andThen (step s) (runToIdle n)

/-- No reset arrives at any of the coming turns. -/
abbrev NoReset (s : State) : Prop := ∀ n, Turn.reset n ∉ s.turns

/-- The end of a run (70_reset_and_hazards.md R178): no more words on the command port, and IDLE. -/
abbrev Finished (s : State) : Prop := s.cmdIn = [] ∧ s.phase = .idle

/-- READ_FB answers this byte at this address (the host's reading of FB, 40_framebuffer_store.md R82). -/
def ReadsBack (s : State) (a : Nat) (b : Byte) : Prop :=
  ∃ t, exec (.readFb a) s = .next t ∧ t.rspOut = s.rspOut ++ [0x00#8 ++ b]

/-- The three READ_FB of a pixel give this colour (40_framebuffer_store.md R82, R84). -/
def PixelReadsBack (s : State) (x y : Nat) (c : Color) : Prop :=
  ReadsBack s (s.params.pixOff x y) (c.extractLsb' 16 8) ∧
  ReadsBack s (s.params.pixOff x y + 1) (c.extractLsb' 8 8) ∧
  ReadsBack s (s.params.pixOff x y + 2) (c.extractLsb' 0 8)

/-- The symbols of one pixel on the panel stream: Pack565, most significant byte first
(20_memory.md R45). -/
def pixelSymbols (s : State) (a : Nat) : List Symbol :=
  let v := pack565 (fbRead s a) (fbRead s (a + 1)) (fbRead s (a + 2))
  [dataSymbol (hi8 v), dataSymbol (lo8 v)]

/-- The frame of band `k` as a function of FB (42_transfer_scheduler.md R129): the header of the band's rows and
its pixels, row-major. -/
def bandFrame (s : State) (k : Nat) : List Symbol :=
  frameHeader s.params (BitVec.ofNat 16 (k * s.params.bandHeight)) ++
    (List.range s.params.bandPixels).flatMap fun q =>
      pixelSymbols s (3 * (k * s.params.bandHeight * s.params.width + q))

/-- The symbols of one REFRESH as a function of FB (42_transfer_scheduler.md R129). -/
def refreshSymbols (s : State) : List Symbol := (List.range s.params.bands).flatMap (bandFrame s)

end Sys2Proof.Machine
end

