-- ==== Sys2Proof/Certificates/Slice0/Obligations.lean ====
section
/-! DEFINITION. The statements about the model, each from the numbered rules of spec/ it names. They hold for
every state, so for every parameter set, every contents of FB and STAGE and every free value. A field a
statement does not name is unchanged where the next state is written as an update of the state before. -/

open Sys2Proof Sys2Proof.Machine

/-! ## Encoding -/

/-- 30_encoding.md R61, R62, R64, R65: no bit of an encoding is dropped. -/
def Obligations.EncodedCommandsDecodeBack : Prop :=
  ∀ i : Instr, i.wellFormed = true → decode (encode i) = .ok i

/-- 30_encoding.md R63, R64: a word that decodes to a command is that command's one encoding. -/
def Obligations.DecodedWordsAreEncodings : Prop :=
  ∀ (w : CmdWord) (i : Instr), decode w = .ok i → i.wellFormed = true ∧ encode i = w

/-- 30_encoding.md R62, second table: a word selects a command exactly when its masked bits match. -/
def Obligations.DecodeFollowsTheMaskTable : Prop :=
  (∀ (w : CmdWord) (i : Instr), decode w = .ok i → w &&& i.mask = i.pattern) ∧
  (∀ (w : CmdWord) (j : Instr), w &&& j.mask = j.pattern →
    ∃ i, decode w = .ok i ∧ i.opcode = j.opcode)

/-- 30_encoding.md R63: must-be-zero fields are part of the match, and the decoder ignores no bit: two words
that decode to one command are one word. -/
def Obligations.NonZeroReservedFieldIsIllegal : Prop :=
  ∀ w : CmdWord,
    (w.extractLsb' 56 8 = 0x02#8 → w.extractLsb' 24 32 ≠ 0#32 → ∃ e, decode w = .error e) ∧
    (w.extractLsb' 56 8 = 0x03#8 → w.extractLsb' 32 24 ≠ 0#24 → ∃ e, decode w = .error e) ∧
    (w.extractLsb' 56 8 = 0x10#8 → w.extractLsb' 40 16 ≠ 0#16 ∨ w.extractLsb' 0 24 ≠ 0#24 →
      ∃ e, decode w = .error e) ∧
    (w.extractLsb' 56 8 = 0x20#8 → w.extractLsb' 0 56 ≠ 0#56 → ∃ e, decode w = .error e) ∧
    (∀ (v : CmdWord) (i : Instr), decode w = .ok i → decode v = .ok i → v = w)

/-- 30_encoding.md R64: the 251 other values of `op` are illegal, 0x00 included. -/
def Obligations.OtherOpcodesAreIllegal : Prop :=
  ∀ w : CmdWord, w.extractLsb' 56 8 ∉ [0x01#8, 0x02#8, 0x03#8, 0x10#8, 0x20#8] →
    ∃ e, decode w = .error e

/-- 30_encoding.md R65: every operand is its field, unsigned, as it stands. -/
def Obligations.OperandsAreUnsignedFields : Prop :=
  ∀ w : CmdWord,
    (∀ x y c, decode w = .ok (.writePixel x y c) →
      x = w.toNat / 2 ^ 40 % 2 ^ 16 ∧ y = w.toNat / 2 ^ 24 % 2 ^ 16 ∧ c.toNat = w.toNat % 2 ^ 24) ∧
    (∀ c, decode w = .ok (.fill c) → c.toNat = w.toNat % 2 ^ 24) ∧
    (∀ a, decode w = .ok (.readFb a) → a = w.toNat % 2 ^ 32) ∧
    (∀ r, decode w = .ok (.convertBand r) → r = w.toNat / 2 ^ 24 % 2 ^ 16)

/-- Words written out from 30_encoding.md R61 and R73, one per command and some illegal ones
(95_test_vectors.md section 3.1). The spec says ILLEGAL of the last three; the names `mustBeZero` and
`unknownOp` are the model's choice (assumption log 12). A sanity statement. -/
def Obligations.SampleWordsDecode : Prop :=
  decode 0x0100010002FFFFFF#64 = .ok (.writePixel 1 2 0xFFFFFF#24) ∧
  decode 0x0200000000FF0000#64 = .ok (.fill 0xFF0000#24) ∧
  decode 0x0300000000000012#64 = .ok (.readFb 0x12) ∧
  decode 0x1000000002000000#64 = .ok (.convertBand 2) ∧
  decode 0x2000000000000000#64 = .ok .refresh ∧
  decode 0x02FFFF0000000000#64 = .error (.mustBeZero 0x02#8) ∧
  decode 0x2000000000000001#64 = .error (.mustBeZero 0x20#8) ∧
  decode 0x0000000000000000#64 = .error (.unknownOp 0x00#8)

/-- 30_encoding.md R73: an operand that does not fit its field is an error, one that fits is taken whole. -/
def Obligations.AssemblerNeverTruncates : Prop :=
  (∀ x y c, assemble "WRITE_PIXEL".toList [x, y, c] =
    if x < 2 ^ 16 ∧ y < 2 ^ 16 ∧ c < 2 ^ 24 then .ok (.writePixel x y (BitVec.ofNat 24 c))
    else .error .operandTooWide) ∧
  (∀ c, assemble "FILL".toList [c] =
    if c < 2 ^ 24 then .ok (.fill (BitVec.ofNat 24 c)) else .error .operandTooWide) ∧
  (∀ a, assemble "READ_FB".toList [a] =
    if a < 2 ^ 32 then .ok (.readFb a) else .error .operandTooWide) ∧
  (∀ r, assemble "CONVERT_BAND".toList [r] =
    if r < 2 ^ 16 then .ok (.convertBand r) else .error .operandTooWide) ∧
  assemble "REFRESH".toList [] = .ok .refresh

/-! ## One step of the block -/

/-- 20_memory.md R50, 30_encoding.md R64: in IDLE a step takes the next word and runs the command it decodes
to. The model's own around it: the turn of the outside world is taken (assumption log 7). -/
def Obligations.StepRunsTheDecodedCommand : Prop :=
  ∀ (s : State) (w : CmdWord) (ws : List CmdWord) (i : Instr),
    s.params.Legal → s.phase = .idle → s.cmdIn = w :: ws → decode w = .ok i →
    (∀ n, s.turns.head? ≠ some (.reset n)) →
    step s = exec i { s with cmdIn := ws, turns := s.turns.tail }

/-- The host interface: the step after `withFetchWord` runs the table's instruction (assumption log 16). -/
def Obligations.FetchWordRunsNext : Prop :=
  ∀ (s : State) (nbits w : Nat) (i : Instr), s.params.Legal → decodeTableWord nbits w = some i →
    step (s.withFetchWord nbits w) = exec i { s with phase := .idle, turns := [] }

/-- 60_exceptions.md R151: a word that decodes to ILLEGAL is dropped and answered 0x0100, and nothing is
written. -/
def Obligations.IllegalWordIsAnswered : Prop :=
  ∀ (s : State) (w : CmdWord) (e : Illegal), decode w = .error e →
    runWord w s = .next { s with rspOut := s.rspOut ++ [0x0100#16], phase := .idle }

/-- 20_memory.md R50, 60_exceptions.md R151: the step that takes an illegal word from the command port. The
model's own around it: the turn of the outside world is taken (assumption log 7). -/
def Obligations.StepAnswersAnIllegalWord : Prop :=
  ∀ (s : State) (w : CmdWord) (ws : List CmdWord) (e : Illegal),
    s.params.Legal → s.phase = .idle → s.cmdIn = w :: ws → decode w = .error e →
    (∀ n, s.turns.head? ≠ some (.reset n)) →
    step s = .next { s with cmdIn := ws, turns := s.turns.tail, rspOut := s.rspOut ++ [0x0100#16] }

/-- 60_exceptions.md R166: between commands the block sits in IDLE with all state retained. -/
def Obligations.IdleBlockKeepsItsState : Prop :=
  ∀ s : State, s.params.Legal → s.phase = .idle → s.cmdIn = [] →
    (∀ n, s.turns.head? ≠ some (.reset n)) → step s = .next { s with turns := s.turns.tail }

/-- 00_scope.md R3, R4, R5, R6, R11: a parameter set that breaks one of the conditions is not legal. That `step`
is where it is refused, for each condition, is the model's reading (assumption log 10). -/
def Obligations.IllegalParametersAreRefused : Prop :=
  ∀ s : State, ¬ (1 ≤ s.params.width ∧ s.params.width ≤ 65535 ∧ 1 ≤ s.params.height ∧
      s.params.height ≤ 65535 ∧ 1 ≤ s.params.bandHeight ∧ s.params.bandHeight ≤ s.params.height ∧
      s.params.height % s.params.bandHeight = 0 ∧
      s.params.width * s.params.height * 3 ≤ 2 ^ 32) →
    step s = .refused .illegalParameters

/-- 20_memory.md R54, R50: during a REFRESH no step takes a word or changes FB. -/
def Obligations.FramebufferFixedWhileRefreshing : Prop :=
  ∀ s t : State, s.phase ≠ .idle → (∀ n, s.turns.head? ≠ some (.reset n)) → step s = .next t →
    t.fb = s.fb ∧ (∀ a, fbRead t a = fbRead s a) ∧ t.cmdIn = s.cmdIn

/-- 10_state.md R29, 00_scope.md R3: the two output streams only grow, and the parameters never change. -/
def Obligations.StreamsGrowAndParametersStay : Prop :=
  ∀ s t : State, step s = .next t →
    s.panelOut <+: t.panelOut ∧ s.rspOut <+: t.rspOut ∧ t.params = s.params

/-- 30_encoding.md R67: a response carries one of the five status codes. -/
def Obligations.ResponsesCarryOneOfFiveCodes : Prop :=
  ∀ s t : State, step s = .next t →
    t.rspOut = s.rspOut ∨
    ∃ w : Half, t.rspOut = s.rspOut ++ [w] ∧
      w.extractLsb' 8 8 ∈ [0x00#8, 0x01#8, 0x02#8, 0x03#8, 0x04#8]

/-! ## Framebuffer Store -/

/-- 40_framebuffer_store.md R80, 20_memory.md R41, R43: WRITE_PIXEL in range, result and frame. The stored
bytes are the three at PixOff(x, y). -/
def Obligations.WritePixelStoresThreeBytes : Prop :=
  ∀ (s : State) (x y : Nat) (c : Color), x < s.params.width → y < s.params.height →
    ∃ t, exec (.writePixel x y c) s = .next t ∧
      fbRead t (s.params.pixOff x y) = c.extractLsb' 16 8 ∧
      fbRead t (s.params.pixOff x y + 1) = c.extractLsb' 8 8 ∧
      fbRead t (s.params.pixOff x y + 2) = c.extractLsb' 0 8 ∧
      (∀ a, a < s.params.pixOff x y ∨ s.params.pixOff x y + 2 < a → fbRead t a = fbRead s a) ∧
      t = { s with fb := t.fb, rspOut := s.rspOut ++ [0x0000#16], phase := .idle }

/-- 60_exceptions.md R152: WRITE_PIXEL out of range fails with 0x02 and writes nothing. -/
def Obligations.WritePixelOutOfRangeFails : Prop :=
  ∀ (s : State) (x y : Nat) (c : Color), s.params.width ≤ x ∨ s.params.height ≤ y →
    exec (.writePixel x y c) s =
      .next { s with rspOut := s.rspOut ++ [0x0200#16], phase := .idle }

/-- 40_framebuffer_store.md R81: FILL sets every pixel; result and frame. -/
def Obligations.FillPaintsEveryPixel : Prop :=
  ∀ (s : State) (c : Color),
    ∃ t, exec (.fill c) s = .next t ∧
      (∀ x y, x < s.params.width → y < s.params.height →
        fbRead t (s.params.pixOff x y) = c.extractLsb' 16 8 ∧
        fbRead t (s.params.pixOff x y + 1) = c.extractLsb' 8 8 ∧
        fbRead t (s.params.pixOff x y + 2) = c.extractLsb' 0 8) ∧
      (∀ a, s.params.fbBytes ≤ a → fbRead t a = fbRead s a) ∧
      t = { s with fb := t.fb, rspOut := s.rspOut ++ [0x0000#16], phase := .idle }

/-- 40_framebuffer_store.md R82: READ_FB answers the byte and changes nothing else; every address of FB reads
as before. -/
def Obligations.ReadFbAnswersTheByte : Prop :=
  ∀ (s : State) (a : Nat), a < s.params.width * s.params.height * 3 →
    exec (.readFb a) s =
      .next { s with rspOut := s.rspOut ++ [0x00#8 ++ fbRead s a], phase := .idle }

/-- 60_exceptions.md R154: READ_FB outside FB fails with 0x04. -/
def Obligations.ReadFbOutOfRangeFails : Prop :=
  ∀ (s : State) (a : Nat), s.params.width * s.params.height * 3 ≤ a →
    exec (.readFb a) s = .next { s with rspOut := s.rspOut ++ [0x0400#16], phase := .idle }

/-- 40_framebuffer_store.md R83: the drawing and reading commands leave STAGE, the scheduler and the panel
stream alone and run in one step; and no command but a REFRESH's later steps emits anything: exec itself
never does. -/
def Obligations.StoreCommandsLeaveTheScheduler : Prop :=
  (∀ (s : State) (i : Instr),
    (∃ x y c, i = .writePixel x y c) ∨ (∃ c, i = .fill c) ∨ (∃ a, i = .readFb a) →
    ∃ t, exec i s = .next t ∧ t.phase = .idle ∧ t.panelOut = s.panelOut ∧ t.stage = s.stage ∧
      t.sel = s.sel ∧ t.row = s.row ∧ t.inflight = s.inflight ∧ t.pending = s.pending) ∧
  (∀ (s t : State) (i : Instr), exec i s = .next t → t.panelOut = s.panelOut)

/-- 40_framebuffer_store.md R84: the testable properties of the Framebuffer Store. -/
def Obligations.PixelsReadBackAsDrawn : Prop :=
  (∀ (s : State) (x y : Nat) (c d : Color), x < s.params.width → y < s.params.height →
    ∃ t u, exec (.writePixel x y c) s = .next t ∧ exec (.writePixel x y d) t = .next u ∧
      PixelReadsBack t x y c ∧ PixelReadsBack u x y d ∧
      (∀ a, a < s.params.pixOff x y ∨ s.params.pixOff x y + 2 < a → fbRead t a = fbRead s a) ∧
      (∀ x' y', x' < s.params.width → y' < s.params.height → (x', y') ≠ (x, y) →
        ∀ k, k < 3 → fbRead t (s.params.pixOff x' y' + k) = fbRead s (s.params.pixOff x' y' + k))) ∧
  (∀ (s : State) (c : Color), ∃ t, exec (.fill c) s = .next t ∧
    ∀ x y, x < s.params.width → y < s.params.height → PixelReadsBack t x y c)

/-! ## Pixel conversion -/

/-- 41_band_converter.md R100: the fields of Pack565, and its two written forms. -/
def Obligations.Pack565TakesTheTopBits : Prop :=
  ∀ r g b : Byte,
    (pack565 r g b).extractLsb' 11 5 = r.extractLsb' 3 5 ∧
    (pack565 r g b).extractLsb' 5 6 = g.extractLsb' 2 6 ∧
    (pack565 r g b).extractLsb' 0 5 = b.extractLsb' 3 5 ∧
    pack565 r g b = ((r.setWidth 16 >>> 3) <<< 11) ||| ((g.setWidth 16 >>> 2) <<< 5) |||
      (b.setWidth 16 >>> 3)

/-- 41_band_converter.md R109, second row: the three parts do not overlap, so OR, ADD and concatenation
agree. -/
def Obligations.Pack565IsASum : Prop :=
  ∀ r g b : Byte,
    (pack565 r g b).toNat = 2048 * (r.toNat / 8) + 32 * (g.toNat / 4) + b.toNat / 8

/-- 41_band_converter.md R101: Swap16 exchanges the two bytes and is its own inverse. -/
def Obligations.Swap16ExchangesTheBytes : Prop :=
  ∀ v : Half,
    (swap16 v).extractLsb' 8 8 = v.extractLsb' 0 8 ∧ (swap16 v).extractLsb' 0 8 = v.extractLsb' 8 8 ∧
    swap16 (swap16 v) = v

/-- 41_band_converter.md R102: the bit table of Native and the source's two examples. -/
def Obligations.NativeBitLayout : Prop :=
  (∀ r g b : Byte,
    native r g b = swap16 (pack565 r g b) ∧
    (native r g b).extractLsb' 13 3 = g.extractLsb' 2 3 ∧
    (native r g b).extractLsb' 8 5 = b.extractLsb' 3 5 ∧
    (native r g b).extractLsb' 3 5 = r.extractLsb' 3 5 ∧
    (native r g b).extractLsb' 0 3 = g.extractLsb' 5 3) ∧
  pack565 0xFF#8 0xFF#8 0xFF#8 = 0xFFFF#16 ∧ native 0xFF#8 0xFF#8 0xFF#8 = 0xFFFF#16 ∧
  pack565 0xFF#8 0x00#8 0x00#8 = 0xF800#16 ∧ native 0xFF#8 0x00#8 0x00#8 = 0x00F8#16

/-- 41_band_converter.md R103: the low bits are dropped, nothing else is, and each of the 2^16 words has
exactly 2^8 pre-images. -/
def Obligations.ConversionTruncates : Prop :=
  (∀ r g b : Byte, native r g b = native (r &&& 0xF8#8) (g &&& 0xFC#8) (b &&& 0xF8#8)) ∧
  (∀ r g b r' g' b' : Byte, native r g b = native r' g' b' ↔
    r.extractLsb' 3 5 = r'.extractLsb' 3 5 ∧ g.extractLsb' 2 6 = g'.extractLsb' 2 6 ∧
    b.extractLsb' 3 5 = b'.extractLsb' 3 5) ∧
  (∀ v : Half, (Finset.univ.filter fun t : Byte × Byte × Byte => native t.1 t.2.1 t.2.2 = v).card = 256)

/-! ## Band conversion -/

/-- 41_band_converter.md R106, R105, 20_memory.md R44: CONVERT_BAND in range fills STAGE[sel], row-major;
result and frame. Nothing of FB, the other slot or the words beyond the band changes. The premise that
the slot is not in flight holds in every reachable IDLE state (`Inv`). -/
def Obligations.ConvertBandFillsTheSelectedSlot : Prop :=
  ∀ (s : State) (r : Nat), r + s.params.bandHeight ≤ s.params.height →
    s.inflight.get s.sel = false →
    ∃ t, exec (.convertBand r) s = .next t ∧
      (∀ j i, j < s.params.bandHeight → i < s.params.width →
        stageRead t s.sel (j * s.params.width + i) =
          native (fbRead s (s.params.pixOff i (r + j))) (fbRead s (s.params.pixOff i (r + j) + 1))
            (fbRead s (s.params.pixOff i (r + j) + 2))) ∧
      (∀ q, s.params.width * s.params.bandHeight ≤ q → stageRead t s.sel q = stageRead s s.sel q) ∧
      t.stage.get (!s.sel) = s.stage.get (!s.sel) ∧
      t = { s with stage := t.stage, rspOut := s.rspOut ++ [0x0000#16], phase := .idle }

/-- 60_exceptions.md R153: CONVERT_BAND past the bottom edge fails with 0x03 and writes nothing, and no step of
a REFRESH ever raises it. -/
def Obligations.ConvertBandPastTheEdgeFails : Prop :=
  (∀ (s : State) (r : Nat), s.params.height < r + s.params.bandHeight →
    exec (.convertBand r) s =
      .next { s with rspOut := s.rspOut ++ [0x0300#16], phase := .idle }) ∧
  (∀ (s t : State) (w : Half), s.phase ≠ .idle → step s = .next t →
    t.rspOut = s.rspOut ++ [w] → w = 0x0000#16)

/-- 41_band_converter.md R108: ConvertBand changes its slot and nothing else, and is a function of FB: two
conversions of one band with FB unchanged give the same words. -/
def Obligations.ConvertBandIsPure : Prop :=
  ∀ (s t : State) (r : Nat) (slot : Bool), convertBand r slot s = .next t →
    t = { s with stage := t.stage } ∧ t.stage.get (!slot) = s.stage.get (!slot) ∧
    ∀ (s' t' : State) (slot' : Bool), s'.params = s.params → (∀ a, fbRead s' a = fbRead s a) →
      convertBand r slot' s' = .next t' →
      ∀ q, q < s.params.bandPixels → stageRead t' slot' q = stageRead t slot q

/-- 41_band_converter.md R105: ConvertBand as a whole, for every word of the slot. -/
def Obligations.ConvertBandWritesTheWholeSlot : Prop :=
  ∀ (s : State) (r : Nat) (slot : Bool), s.inflight.get slot = false →
    r + s.params.bandHeight ≤ s.params.height →
    ∃ t, convertBand r slot s = .next t ∧
      (∀ q, q < s.params.width * s.params.bandHeight →
        Memory.read (t.stage.get slot) q =
          some (native (fbRead s (3 * (r * s.params.width + q)))
            (fbRead s (3 * (r * s.params.width + q) + 1)) (fbRead s (3 * (r * s.params.width + q) + 2)))) ∧
      t = { s with stage := s.stage.set slot (t.stage.get slot) }

/-- 70_reset_and_hazards.md R173: no step rewrites a slot while it is in flight. -/
def Obligations.SlotInFlightIsNeverRewritten : Prop :=
  ∀ (s t : State) (slot : Bool), (∀ n, s.turns.head? ≠ some (.reset n)) → step s = .next t →
    s.inflight.get slot = true → t.stage.get slot = s.stage.get slot

/-! ## The band-write -/

/-- 42_transfer_scheduler.md R126: the frame BandWrite emits, symbol by symbol. -/
def Obligations.BandWriteEmitsTheFrame : Prop :=
  ∀ (s : State) (r : Half) (slot : Bool), s.params.Legal →
    r.toNat + s.params.bandHeight ≤ s.params.height →
    ∃ (F : List Symbol) (e : Half),
      bandWrite r slot s = .next { s with panelOut := s.panelOut ++ F } ∧
      e.toNat = r.toNat + s.params.bandHeight ∧
      F.length = 11 + 2 * (s.params.width * s.params.bandHeight) ∧
      F.take 11 =
        [⟨false, s.params.cmdColAddr⟩,
         ⟨true, s.params.colStart.extractLsb' 8 8⟩, ⟨true, s.params.colStart.extractLsb' 0 8⟩,
         ⟨true, s.params.colEnd.extractLsb' 8 8⟩, ⟨true, s.params.colEnd.extractLsb' 0 8⟩,
         ⟨false, s.params.cmdPageAddr⟩,
         ⟨true, r.extractLsb' 8 8⟩, ⟨true, r.extractLsb' 0 8⟩,
         ⟨true, e.extractLsb' 8 8⟩, ⟨true, e.extractLsb' 0 8⟩,
         ⟨false, s.params.cmdMemWrite⟩] ∧
      ∀ p, p < s.params.width * s.params.bandHeight →
        F[11 + 2 * p]? = some ⟨true, (stageRead s slot p).extractLsb' 0 8⟩ ∧
        F[12 + 2 * p]? = some ⟨true, (stageRead s slot p).extractLsb' 8 8⟩

/-- 20_memory.md R45: a converted pixel goes out as Pack565, most significant byte first. -/
def Obligations.PixelsGoOutBigEndian : Prop :=
  ∀ (s : State) (slot : Bool) (r p : Nat) (h : Half), HoldsBand s slot r →
    p < s.params.bandPixels →
    (frame s h slot)[11 + 2 * p]? = some ⟨true, (pack565 (fbRead s (3 * (r * s.params.width + p)))
      (fbRead s (3 * (r * s.params.width + p) + 1))
      (fbRead s (3 * (r * s.params.width + p) + 2))).extractLsb' 8 8⟩ ∧
    (frame s h slot)[12 + 2 * p]? = some ⟨true, (pack565 (fbRead s (3 * (r * s.params.width + p)))
      (fbRead s (3 * (r * s.params.width + p) + 1))
      (fbRead s (3 * (r * s.params.width + p) + 2))).extractLsb' 0 8⟩

/-- 30_encoding.md R72: the block emits whole frames and nothing else, three command symbols and
`8 + BAND_BYTES` data symbols each; a reset alone cuts one short. -/
def Obligations.OnlyFramesAreEmitted : Prop :=
  (∀ (s : State) (r : Half) (slot : Bool),
    (frame s r slot).countP (fun x => !x.dc) = 3 ∧
    (frame s r slot).countP (fun x => x.dc) = 8 + s.params.bandBytes ∧
    (frame s r slot).filter (fun x => !x.dc) =
      [⟨false, s.params.cmdColAddr⟩, ⟨false, s.params.cmdPageAddr⟩, ⟨false, s.params.cmdMemWrite⟩]) ∧
  (∀ s t : State, step s = .next t →
    t.panelOut = s.panelOut ∨
    (∃ r slot, t.panelOut = s.panelOut ++ frame s r slot) ∨
    (∃ n r slot, s.turns.head? = some (.reset n) ∧
      t.panelOut = s.panelOut ++ (frame s r slot).take n))

/-- 42_transfer_scheduler.md R134: every word a frame is emitted from has been written by the conversion of
that frame's band, from FB as it stands: no unspecified staging word reaches the panel stream. A reset
turn, which cuts the frame short after `n` symbols, is no exception (assumption log 9). -/
def Obligations.NoUnwrittenWordIsEmitted : Prop :=
  ∀ s t : State, Inv s → step s = .next t → t.panelOut ≠ s.panelOut →
    ∃ (r : Half) (slot : Bool),
      (((∀ n, s.turns.head? ≠ some (.reset n)) ∧ t.panelOut = s.panelOut ++ frame s r slot) ∨
        ∃ n, s.turns.head? = some (.reset n) ∧ t.panelOut = s.panelOut ++ (frame s r slot).take n) ∧
      ∀ q, q < s.params.bandPixels →
        Memory.read (s.stage.get slot) q = some (native (fbRead s (3 * (r.toNat * s.params.width + q)))
          (fbRead s (3 * (r.toNat * s.params.width + q) + 1))
          (fbRead s (3 * (r.toNat * s.params.width + q) + 2)))

/-! ## The scheduler -/

/-- 42_transfer_scheduler.md R120: the acceptance of REFRESH. -/
def Obligations.RefreshIsAccepted : Prop :=
  ∀ s : State, exec .refresh s = .next { s with row := 0#16, sel := false, phase := .convert }

/-- 42_transfer_scheduler.md R121: the convert step (OVERLAP = 0). -/
def Obligations.ConvertStepFillsTheSlot : Prop :=
  ∀ s : State, s.params.Legal → s.params.overlap = false → s.phase = .convert →
    s.inflight.get s.sel = false → s.row.toNat + s.params.bandHeight ≤ s.params.height →
    (∀ n, s.turns.head? ≠ some (.reset n)) →
    ∃ t, step s = .next t ∧ HoldsBand t s.sel s.row.toNat ∧
      t = { s with
        stage := s.stage.set s.sel (t.stage.get s.sel), phase := .write, turns := s.turns.tail }

/-- 42_transfer_scheduler.md R122, R123: the write step (OVERLAP = 0) emits the frame, flips `sel`, advances
`row` and goes on to the next band or completes with OK. -/
def Obligations.WriteStepEmitsAndAdvances : Prop :=
  ∀ s : State, s.params.Legal → s.params.overlap = false → s.phase = .write →
    s.row.toNat + s.params.bandHeight ≤ s.params.height →
    s.turns.head? ≠ some .backendBusy → (∀ n, s.turns.head? ≠ some (.reset n)) →
    ∃ t, step s = .next t ∧ t.row.toNat = s.row.toNat + s.params.bandHeight ∧
      (s.row.toNat + s.params.bandHeight < s.params.height →
        t = { s with
          panelOut := s.panelOut ++ frame s s.row s.sel, inflight := s.inflight.set s.sel false
          sel := !s.sel, row := t.row, phase := .convert, turns := s.turns.tail }) ∧
      (s.params.height ≤ s.row.toNat + s.params.bandHeight →
        t.row.toNat = s.params.height ∧
        t = { s with
          panelOut := s.panelOut ++ frame s s.row s.sel, inflight := s.inflight.set s.sel false
          sel := !s.sel, row := t.row, phase := .idle, turns := s.turns.tail
          rspOut := s.rspOut ++ [0x0000#16] })

/-- 42_transfer_scheduler.md R132: the producer step (OVERLAP = 1), and the hold of the producer while the
slot is in flight: then the step leaves every slot, `sel`, `row` and `phase` as they are, and is the
consumer's, or, on a turn on which the backend is busy, changes nothing. The turn taken is the model's
choice (assumption log 7). -/
def Obligations.ProducerConvertsAndIssues : Prop :=
  (∀ s : State, s.params.Legal → s.params.overlap = true → s.phase = .convert →
    s.inflight.get s.sel = false → s.row.toNat + s.params.bandHeight ≤ s.params.height →
    (∀ n, s.turns.head? ≠ some (.reset n)) →
    s.pending = [] ∨ s.turns.head? ≠ some .consumerFirst →
    ∃ t, step s = .next t ∧ HoldsBand t s.sel s.row.toNat ∧
      t.row.toNat = s.row.toNat + s.params.bandHeight ∧
      t = { s with
        stage := s.stage.set s.sel (t.stage.get s.sel), inflight := s.inflight.set s.sel true
        pending := s.pending ++ [⟨s.row, s.sel⟩], sel := !s.sel, row := t.row
        phase := if s.params.height ≤ s.row.toNat + s.params.bandHeight then .drain else .convert
        turns := s.turns.tail }) ∧
  (∀ s t : State, s.params.overlap = true → s.phase = .convert → s.inflight.get s.sel = true →
    (∀ n, s.turns.head? ≠ some (.reset n)) → step s = .next t →
    t.stage = s.stage ∧ t.sel = s.sel ∧ t.row = s.row ∧ t.phase = .convert ∧
    (s.turns.head? = some .backendBusy → t = { s with turns := s.turns.tail }) ∧
    (s.turns.head? ≠ some .backendBusy → ∃ e rest, s.pending = e :: rest ∧
      t = { s with
        panelOut := s.panelOut ++ frame s e.row e.slot, pending := rest
        inflight := s.inflight.set e.slot false, turns := s.turns.tail }))

/-- 42_transfer_scheduler.md R133: the consumer step (OVERLAP = 1), where the turn names the consumer or the
producer has no step. -/
def Obligations.ConsumerEmitsTheOldest : Prop :=
  ∀ (s : State) (e : BandWriteReq) (rest : List BandWriteReq), s.params.Legal →
    s.params.overlap = true → s.pending = e :: rest →
    e.row.toNat + s.params.bandHeight ≤ s.params.height →
    (s.phase = .convert ∧ (s.turns.head? = some .consumerFirst ∨ s.inflight.get s.sel = true)) ∨
      s.phase = .drain →
    s.turns.head? ≠ some .backendBusy → (∀ n, s.turns.head? ≠ some (.reset n)) →
    step s = .next { s with
      panelOut := s.panelOut ++ frame s e.row e.slot, pending := rest
      inflight := s.inflight.set e.slot false, turns := s.turns.tail }

/-- 42_transfer_scheduler.md R135: completion (OVERLAP = 1), only with nothing pending. The turn taken is the
model's choice (assumption log 7). -/
def Obligations.DrainCompletesWhenEmpty : Prop :=
  ∀ s : State, s.params.Legal → s.params.overlap = true → s.phase = .drain →
    (∀ n, s.turns.head? ≠ some (.reset n)) →
    (s.pending = [] → step s = .next { s with
      phase := .idle, rspOut := s.rspOut ++ [0x0000#16], turns := s.turns.tail }) ∧
    (s.pending ≠ [] → ∀ t, step s = .next t → t.phase = .drain ∧ t.rspOut = s.rspOut)

/-- 70_reset_and_hazards.md R175: while the backend accepts nothing, a block whose one possible step is an
emission keeps its state: it is stuck, not faulted. The three cases: the write step of OVERLAP = 0, and
with OVERLAP = 1 a pending band-write in DRAIN or while the producer holds. The busy turn is the model's
choice (assumption logs 7 and 8). -/
def Obligations.BusyBackendHoldsTheBlock : Prop :=
  ∀ s : State, s.params.Legal → s.turns.head? = some .backendBusy →
    (s.params.overlap = false ∧ s.phase = .write) ∨
      (s.params.overlap = true ∧ s.phase = .drain ∧ s.pending ≠ []) ∨
      (s.params.overlap = true ∧ s.phase = .convert ∧ s.inflight.get s.sel = true ∧ s.pending ≠ []) →
    step s = .next { s with turns := s.turns.tail }

/-- 42_transfer_scheduler.md R131: the bands of a frame are disjoint and cover every row once, and the pixels
of the frames of one REFRESH are the pixels of FB, each once, in row-major order. -/
def Obligations.RefreshCoversEveryPixelOnce : Prop :=
  ∀ s : State, s.params.Legal →
    (∀ y, y < s.params.height → ∃! k, k < s.params.bands ∧
      k * s.params.bandHeight ≤ y ∧ y < (k + 1) * s.params.bandHeight) ∧
    (∀ k, k < s.params.bands → ∀ y, k * s.params.bandHeight ≤ y → y < (k + 1) * s.params.bandHeight →
      y < s.params.height) ∧
    (List.range s.params.bands).flatMap (fun k => (bandFrame s k).drop 11) =
      (List.range (s.params.width * s.params.height)).flatMap fun m => pixelSymbols s (3 * m)

/-- 42_transfer_scheduler.md R129: a REFRESH as a whole, with either value of OVERLAP and under every schedule
of producer, consumer and backend: whenever the steps after its acceptance have brought the block back to
IDLE, this is what they have done. -/
def Obligations.RefreshAsAWhole : Prop :=
  ∀ (s a t : State) (n : Nat), Inv s → s.phase = .idle → NoReset s → exec .refresh s = .next a →
    runToIdle n a = .next t → t.phase = .idle →
    t.panelOut = s.panelOut ++ refreshSymbols s ∧
    (refreshSymbols s).length = s.params.bands * (11 + s.params.bandBytes) ∧
    s.params.bands * s.params.bandBytes = 2 * s.params.width * s.params.height ∧
    HoldsBand t (s.params.bandSlot ((s.params.bands - 1) * s.params.bandHeight))
      ((s.params.bands - 1) * s.params.bandHeight) ∧
    (2 ≤ s.params.bands → HoldsBand t (s.params.bands % 2 == 1)
      ((s.params.bands - 2) * s.params.bandHeight)) ∧
    (s.params.bands = 1 → t.stage.slot1 = s.stage.slot1) ∧
    t.row.toNat = s.params.height ∧ t.sel = (s.params.bands % 2 == 1) ∧
    t.rspOut = s.rspOut ++ [0x0000#16] ∧ t.pending = [] ∧
    (∀ slot, t.inflight.get slot = false) ∧
    t.params = s.params ∧ t.fb = s.fb ∧ t.cmdIn = s.cmdIn ∧ t.run = s.run

/-- 42_transfer_scheduler.md R123, R124, 70_reset_and_hazards.md R175: a REFRESH ends. After its acceptance
`2 * NB + 1` steps and one more for each turn on which the backend is busy are enough; that the turns
name only so many busy ones is the fairness assumption of R175. -/
def Obligations.RefreshEnds : Prop :=
  ∀ (s a : State) (n : Nat), Inv s → s.phase = .idle → NoReset s → exec .refresh s = .next a →
    2 * s.params.bands + 1 + s.turns.count .backendBusy ≤ n →
    ∃ t, runToIdle n a = .next t ∧ t.phase = .idle

/-- 42_transfer_scheduler.md R136: for the same starting state a REFRESH with OVERLAP = 1 and one with
OVERLAP = 0 append the same symbols, produce the same response and end in the same state, under every
interleaving. (The parameter itself and the turns left over differ: they are the inputs.) -/
def Obligations.OverlapChangesNothingObservable : Prop :=
  ∀ (s a₀ a₁ t₀ t₁ : State) (turns₁ : List Turn) (n₀ n₁ : Nat),
    Inv { s with params := { s.params with overlap := false } } → s.phase = .idle →
    NoReset s → (∀ n, Turn.reset n ∉ turns₁) →
    exec .refresh { s with params := { s.params with overlap := false } } = .next a₀ →
    exec .refresh { s with params := { s.params with overlap := true }, turns := turns₁ } = .next a₁ →
    runToIdle n₀ a₀ = .next t₀ → t₀.phase = .idle → runToIdle n₁ a₁ = .next t₁ → t₁.phase = .idle →
    t₁ = { t₀ with params := { t₀.params with overlap := true }, turns := t₁.turns }

/-! ## Errors -/

/-- 60_exceptions.md R160, R157: a command word that fails, illegal or not, changes nothing but RSP_OUT, its
response has the data byte 0, and the block is back in IDLE. -/
def Obligations.FailedCommandsChangeNothing : Prop :=
  ∀ (s t : State) (w : CmdWord) (v : Half), runWord w s = .next t → t.rspOut = s.rspOut ++ [v] →
    v.extractLsb' 8 8 ≠ 0x00#8 →
    v.extractLsb' 0 8 = 0x00#8 ∧ t = { s with rspOut := s.rspOut ++ [v], phase := .idle }

/-- 60_exceptions.md R161: an error is not sticky: the command word after a failed one does what it would have
done without it, apart from the extra word in RSP_OUT. -/
def Obligations.ErrorsAreNotSticky : Prop :=
  ∀ (s t u : State) (w₁ w₂ : CmdWord) (v : Half), s.phase = .idle → runWord w₁ s = .next t →
    t.rspOut = s.rspOut ++ [v] → v.extractLsb' 8 8 ≠ 0x00#8 → runWord w₂ s = .next u →
    ∃ rsp, u.rspOut = s.rspOut ++ rsp ∧
      runWord w₂ t = .next { u with rspOut := s.rspOut ++ [v] ++ rsp }

/-- 30_encoding.md R66, 42_transfer_scheduler.md R123, R135: every command but REFRESH produces its one response in its one
step; REFRESH produces none when it is accepted. -/
def Obligations.OneResponsePerCommand : Prop :=
  ∀ (s t : State) (i : Instr), exec i s = .next t →
    (i ≠ .refresh → t.phase = .idle ∧ ∃ w : Half, t.rspOut = s.rspOut ++ [w]) ∧
    (i = .refresh → t.phase ≠ .idle ∧ t.rspOut = s.rspOut)

/-! ## Reset and invariants -/

/-- 70_reset_and_hazards.md R171: straight after reset, for every parameter set. That the unspecified contents
of FB and STAGE are the free values, and that the reset state is the one of some legal parameter set, is
the model's way of saying it (assumption logs 2 to 4). -/
def Obligations.StateAfterReset : Prop :=
  (∃ p : Params, p.Legal ∧ State.reset = State.resetWith p) ∧
  ∀ p : Params, (State.resetWith p).params = p ∧ (State.resetWith p).phase = .idle ∧
    (State.resetWith p).sel = false ∧ (State.resetWith p).row = 0#16 ∧
    (∀ slot, (State.resetWith p).inflight.get slot = false) ∧ (State.resetWith p).pending = [] ∧
    (State.resetWith p).panelOut = [] ∧ (State.resetWith p).rspOut = [] ∧
    (∀ a, fbRead (State.resetWith p) a = Config.fbAtReset (State.resetWith p).run a) ∧
    (∀ slot q, stageRead (State.resetWith p) slot q =
      Config.stageAtReset (State.resetWith p).run slot q)

/-- 70_reset_and_hazards.md R170: a reset event, also in the middle of a REFRESH, puts every piece of state at its
reset value, produces no response and leaves the symbols already emitted. That the records and the words
not yet taken stay is the model's reading (assumption log 9). -/
def Obligations.ResetAbandonsTheCommand : Prop :=
  ∀ (s : State) (n : Nat) (rest : List Turn), s.params.Legal → s.turns = .reset n :: rest →
    ∃ t, step s = .next t ∧ t.phase = .idle ∧ t.sel = false ∧ t.row = 0#16 ∧
      (∀ slot, t.inflight.get slot = false) ∧ t.pending = [] ∧
      (∀ a, fbRead t a = Config.fbAtReset (s.run + 1) a) ∧
      (∀ slot q, stageRead t slot q = Config.stageAtReset (s.run + 1) slot q) ∧
      t.rspOut = s.rspOut ∧ t.params = s.params ∧ t.cmdIn = s.cmdIn ∧ t.turns = rest ∧
      (s.params.overlap = false → s.phase = .write →
        t.panelOut = s.panelOut ++ (frame s s.row s.sel).take n) ∧
      (s.params.overlap = false → s.phase ≠ .write → t.panelOut = s.panelOut) ∧
      (s.params.overlap = true → ∀ e es, s.pending = e :: es →
        t.panelOut = s.panelOut ++ (frame s e.row e.slot).take n) ∧
      (s.params.overlap = true → s.pending = [] → t.panelOut = s.panelOut)

/-- The reset state of every legal parameter set meets the invariant (10_state.md R36, R37). -/
def Obligations.ResetMeetsTheInvariant : Prop :=
  Inv State.reset ∧ ∀ p : Params, p.Legal → Inv (State.resetWith p)

/-- 10_state.md R37, 42_transfer_scheduler.md R124, 20_memory.md R42: every step from a state that meets the
invariant leads to one that meets it. -/
def Obligations.EveryStepKeepsTheInvariant : Prop :=
  ∀ s t : State, Inv s → step s = .next t → Inv t

/-- No fault and no refusal in any state that meets the invariant: the block never stops by itself
(30_encoding.md R64, 42_transfer_scheduler.md R124, 70_reset_and_hazards.md R175, R180). -/
def Obligations.TheBlockNeverStops : Prop := ∀ s : State, Inv s → Safe s

/-- 10_state.md R37: the invariants of every state reached from reset, whatever words the host presents and
whatever the outside world does. -/
def Obligations.ReachableStatesAreInOrder : Prop :=
  ∀ (p : Params) (words : List CmdWord) (turns : List Turn) (n : Nat) (t : State), p.Legal →
    Host.Core.run core n { State.resetWith p with cmdIn := words, turns := turns } = .next t →
    p.bandHeight ∣ t.row.toNat ∧ t.row.toNat ≤ p.height ∧
    (t.phase = .idle → t.pending = [] ∧ ∀ slot, t.inflight.get slot = false) ∧
    (t.phase = .convert ∨ t.phase = .write → t.sel = (t.row.toNat / p.bandHeight % 2 == 1)) ∧
    (p.overlap = false → t.pending = [] ∧ ∀ slot, t.inflight.get slot = false) ∧
    t.pending.length ≤ 2

/-- 30_encoding.md R66, 20_memory.md R50, 70_reset_and_hazards.md R178: in a run without resets the words are
taken in the order presented, every word taken has had its one response unless it is the REFRESH in
progress, and PANEL_OUT is a whole number of frames, each the header of a row and BAND_BYTES data symbols;
so at the end of a run there is one response for every word. The words and the turns as lists are the
model's choice (assumption logs 6 and 7). -/
def Obligations.EveryWordGetsOneResponse : Prop :=
  ∀ (p : Params) (words : List CmdWord) (turns : List Turn) (n : Nat) (t : State), p.Legal →
    (∀ k, Turn.reset k ∉ turns) →
    Host.Core.run core n { State.resetWith p with cmdIn := words, turns := turns } = .next t →
    t.cmdIn <:+ words ∧
    t.rspOut.length + (if t.phase = .idle then 0 else 1) + t.cmdIn.length = words.length ∧
    (∃ frames : List (Half × List Byte), (∀ f ∈ frames, f.2.length = 2 * p.bandPixels) ∧
      t.panelOut = frames.flatMap fun f => frameHeader p f.1 ++ f.2.map dataSymbol) ∧
    (Finished t → t.rspOut.length = words.length ∧ t.pending = [] ∧
      ∀ slot, t.inflight.get slot = false)

/-- 30_encoding.md R66, 20_memory.md R50, 42_transfer_scheduler.md R123, R135: the same of one step, from every
state that meets the invariant: a step without a reset takes words from the front of the port, and the
responses given, the REFRESH in progress and the words not yet taken add up to what they did. The port
and the turns as lists are the model's choice (assumption logs 6 and 7). -/
def Obligations.EveryStepAccountsForItsWords : Prop :=
  ∀ s t : State, Inv s → (∀ n, s.turns.head? ≠ some (.reset n)) → step s = .next t →
    t.cmdIn <:+ s.cmdIn ∧ s.cmdIn.length ≤ t.cmdIn.length + 1 ∧
    t.rspOut.length + (if t.phase = .idle then 0 else 1) + t.cmdIn.length =
      s.rspOut.length + (if s.phase = .idle then 0 else 1) + s.cmdIn.length
end

