-- ==== Sys2Proof/Laws/Encoding.lean ====
section
/-! SUPPORT. The fields of a command word and the words of the commands as numbers, so that facts about
encodings are linear arithmetic. -/

namespace Sys2Proof

/-- Concatenation as arithmetic. -/
theorem append_toNat {m n : Nat} (a : BitVec m) (b : BitVec n) :
    (a ++ b).toNat = a.toNat * 2 ^ n + b.toNat := by
  rw [BitVec.toNat_append, Nat.shiftLeft_eq, Nat.mul_comm, ← Nat.two_pow_add_eq_or_of_lt b.isLt]

/-- A slice as arithmetic. -/
theorem slice_toNat {m : Nat} (w : BitVec m) (lo len : Nat) :
    (w.extractLsb' lo len).toNat = w.toNat / 2 ^ lo % 2 ^ len := by
  rw [BitVec.extractLsb'_toNat, Nat.shiftRight_eq_div_pow]

theorem opField_toNat (w : CmdWord) : (opField w).toNat = w.toNat / 2 ^ 56 % 2 ^ 8 := slice_toNat w 56 8
theorem xField_toNat (w : CmdWord) : (xField w).toNat = w.toNat / 2 ^ 40 % 2 ^ 16 := slice_toNat w 40 16
theorem yField_toNat (w : CmdWord) : (yField w).toNat = w.toNat / 2 ^ 24 % 2 ^ 16 := slice_toNat w 24 16
theorem colorField_toNat (w : CmdWord) : (colorField w).toNat = w.toNat % 2 ^ 24 := by
  rw [colorField, slice_toNat, Nat.pow_zero, Nat.div_one]
theorem addrField_toNat (w : CmdWord) : (addrField w).toNat = w.toNat % 2 ^ 32 := by
  rw [addrField, slice_toNat, Nat.pow_zero, Nat.div_one]

/-- The word of a WRITE_PIXEL as a number (30_encoding.md R61, format P). -/
theorem encode_writePixel_toNat (x y : Nat) (c : Color) :
    (encode (.writePixel x y c)).toNat =
      1 * 2 ^ 56 + x % 2 ^ 16 * 2 ^ 40 + y % 2 ^ 16 * 2 ^ 24 + c.toNat := by
  simp only [encode, append_toNat, BitVec.toNat_ofNat]; omega

/-- The word of a FILL as a number (format C). -/
theorem encode_fill_toNat (c : Color) : (encode (.fill c)).toNat = 2 * 2 ^ 56 + c.toNat := by
  simp only [encode, append_toNat, BitVec.toNat_ofNat]; omega

/-- The word of a READ_FB as a number (format A). -/
theorem encode_readFb_toNat (a : Nat) : (encode (.readFb a)).toNat = 3 * 2 ^ 56 + a % 2 ^ 32 := by
  simp only [encode, append_toNat, BitVec.toNat_ofNat]; omega

/-- The word of a CONVERT_BAND as a number (format R). -/
theorem encode_convertBand_toNat (r : Nat) :
    (encode (.convertBand r)).toNat = 16 * 2 ^ 56 + r % 2 ^ 16 * 2 ^ 24 := by
  simp only [encode, append_toNat, BitVec.toNat_ofNat]; omega

/-- The word of a REFRESH as a number (format N). -/
theorem encode_refresh_toNat : (encode .refresh).toNat = 32 * 2 ^ 56 := by
  simp only [encode, append_toNat, BitVec.toNat_ofNat]; omega

end Sys2Proof
end

