-- ==== Sys2Proof/Laws/Memory.lean ====
section
/-! SUPPORT. The laws of a memory in canonical form: a read after a write, and that writing keeps the
form. -/

namespace Sys2Proof.Machine

variable {n : Nat}

/-- What a read at `b` gives after a write at `a`. -/
theorem Memory.read_write (m : Memory n) (a b : Nat) (v : BitVec n) :
    Memory.read (Memory.write m a v) b = if b = a then some v else Memory.read m b := by
  induction m with
  | nil => simp [Memory.write, Memory.read]
  | cons e rest ih =>
    obtain ⟨c, u⟩ := e
    simp only [Memory.write]
    split
    · simp [Memory.read]
    · split
      · rename_i h; subst h
        by_cases hb : b = a <;> simp [Memory.read, hb]
      · simp only [Memory.read, ih]
        by_cases hb : b = a <;> by_cases hc : b = c <;> simp_all

@[simp] theorem Memory.read_write_same (m : Memory n) (a : Nat) (v : BitVec n) :
    Memory.read (Memory.write m a v) a = some v := by simp [Memory.read_write]

theorem Memory.read_write_other {m : Memory n} {a b : Nat} (h : b ≠ a) (v : BitVec n) :
    Memory.read (Memory.write m a v) b = Memory.read m b := by simp [Memory.read_write, h]

@[simp] theorem Memory.read_nil (a : Nat) : Memory.read ([] : Memory n) a = none := rfl

theorem Memory.within_write {m : Memory n} {lo hi a : Nat} (v : BitVec n)
    (h : Memory.within lo hi m = true) (hlo : lo ≤ a) (hhi : a < hi) :
    Memory.within lo hi (Memory.write m a v) = true := by
  induction m generalizing lo with
  | nil => simp [Memory.write, Memory.within, hlo, hhi]
  | cons e rest ih =>
    obtain ⟨c, u⟩ := e
    simp only [Memory.within, Bool.and_eq_true, decide_eq_true_eq] at h
    obtain ⟨⟨h1, h2⟩, h3⟩ := h
    simp only [Memory.write]
    split
    · rename_i hlt
      simp only [Memory.within, Bool.and_eq_true, decide_eq_true_eq]
      exact ⟨⟨hlo, hhi⟩, ⟨by omega, h2⟩, h3⟩
    · split
      · rename_i heq; subst heq
        simp only [Memory.within, Bool.and_eq_true, decide_eq_true_eq]
        exact ⟨⟨hlo, hhi⟩, h3⟩
      · simp only [Memory.within, Bool.and_eq_true, decide_eq_true_eq]
        exact ⟨⟨h1, h2⟩, ih h3 (by omega)⟩

/-- Writing below the size keeps the canonical form. -/
theorem Memory.wf_write {m : Memory n} {size a : Nat} (v : BitVec n)
    (h : Memory.wf size m = true) (ha : a < size) : Memory.wf size (Memory.write m a v) = true :=
  Memory.within_write v h (Nat.zero_le a) ha

/-- A memory in canonical form lists nothing below its first possible address. -/
theorem Memory.read_below {m : Memory n} {lo hi a : Nat} (h : Memory.within lo hi m = true)
    (ha : a < lo) : Memory.read m a = none := by
  induction m generalizing lo with
  | nil => rfl
  | cons e rest ih =>
    obtain ⟨c, u⟩ := e
    simp only [Memory.within, Bool.and_eq_true, decide_eq_true_eq] at h
    simp only [Memory.read, show a ≠ c by omega, if_false]
    exact ih h.2 (by omega)

/-- A memory in canonical form lists nothing at or above its size. -/
theorem Memory.read_above {m : Memory n} {lo hi a : Nat} (h : Memory.within lo hi m = true)
    (ha : hi ≤ a) : Memory.read m a = none := by
  induction m generalizing lo with
  | nil => rfl
  | cons e rest ih =>
    obtain ⟨c, u⟩ := e
    simp only [Memory.within, Bool.and_eq_true, decide_eq_true_eq] at h
    simp only [Memory.read, show a ≠ c by omega, if_false]
    exact ih h.2

/-- Equal memories are equal data: two memories in canonical form that read alike are one list. -/
theorem Memory.ext_read {m k : Memory n} {lo hi : Nat} (hm : Memory.within lo hi m = true)
    (hk : Memory.within lo hi k = true) (h : ∀ a, Memory.read m a = Memory.read k a) : m = k := by
  induction m generalizing lo k with
  | nil =>
    cases k with
    | nil => rfl
    | cons e rest => have := h e.1; simp [Memory.read] at this
  | cons e rest ih =>
    obtain ⟨c, u⟩ := e
    cases k with
    | nil => have := h c; simp [Memory.read] at this
    | cons e' rest' =>
      obtain ⟨d, w⟩ := e'
      simp only [Memory.within, Bool.and_eq_true, decide_eq_true_eq] at hm hk
      have hcd : c = d := by
        rcases Nat.lt_trichotomy c d with hlt | heq | hgt
        · have := h c
          simp only [Memory.read, if_true, show c ≠ d by omega, if_false] at this
          rw [Memory.read_below hk.2 (by omega)] at this; cases this
        · exact heq
        · have := h d
          simp only [Memory.read, if_true, show d ≠ c by omega, if_false] at this
          rw [Memory.read_below hm.2 (by omega)] at this; cases this
      subst hcd
      have huw : u = w := by have := h c; simpa [Memory.read] using this
      subst huw
      have : rest = rest' := by
        apply ih hm.2 hk.2
        intro a
        by_cases ha : a = c
        · subst ha
          rw [Memory.read_below hm.2 (by omega), Memory.read_below hk.2 (by omega)]
        · have := h a; simpa [Memory.read, ha] using this
      rw [this]

end Sys2Proof.Machine
end

