-- ==== Sys2Proof/Laws/State.lean ====
section
/-! SUPPORT. One lemma per field per update of the state, each by `rfl`, so that no later proof unfolds a
record update. -/

namespace Sys2Proof.Machine

@[simp] theorem TwoSlots.get_set_same {α : Type} (t : TwoSlots α) (slot : Bool) (v : α) :
    (t.set slot v).get slot = v := by cases slot <;> rfl

@[simp] theorem TwoSlots.get_set_other {α : Type} (t : TwoSlots α) (slot : Bool) (v : α) :
    (t.set (!slot) v).get slot = t.get slot := by cases slot <;> rfl

/-- What one element of a pair of slots is after a write of another or the same. -/
theorem TwoSlots.get_set {α : Type} (t : TwoSlots α) (a b : Bool) (v : α) :
    (t.set a v).get b = if b = a then v else t.get b := by cases a <;> cases b <;> rfl

@[simp] theorem TwoSlots.set_set {α : Type} (t : TwoSlots α) (slot : Bool) (v w : α) :
    (t.set slot v).set slot w = t.set slot w := by cases slot <;> rfl

@[simp] theorem TwoSlots.set_get {α : Type} (t : TwoSlots α) (slot : Bool) :
    t.set slot (t.get slot) = t := by cases slot <;> rfl

/-- Two pairs of slots with the same elements are one pair. -/
theorem TwoSlots.ext_get {α : Type} {t u : TwoSlots α} (h : ∀ slot, t.get slot = u.get slot) : t = u := by
  cases t; cases u
  have h0 := h false
  have h1 := h true
  simp only [TwoSlots.get] at h0 h1
  rw [h0, h1]

@[simp] theorem fbWrite_params (s : State) (a : Nat) (b : Byte) : (fbWrite s a b).params = s.params := rfl
@[simp] theorem fbWrite_fb (s : State) (a : Nat) (b : Byte) : (fbWrite s a b).fb = Memory.write s.fb a b := rfl
@[simp] theorem fbWrite_stage (s : State) (a : Nat) (b : Byte) : (fbWrite s a b).stage = s.stage := rfl
@[simp] theorem fbWrite_sel (s : State) (a : Nat) (b : Byte) : (fbWrite s a b).sel = s.sel := rfl
@[simp] theorem fbWrite_row (s : State) (a : Nat) (b : Byte) : (fbWrite s a b).row = s.row := rfl
@[simp] theorem fbWrite_phase (s : State) (a : Nat) (b : Byte) : (fbWrite s a b).phase = s.phase := rfl
@[simp] theorem fbWrite_inflight (s : State) (a : Nat) (b : Byte) : (fbWrite s a b).inflight = s.inflight := rfl
@[simp] theorem fbWrite_pending (s : State) (a : Nat) (b : Byte) : (fbWrite s a b).pending = s.pending := rfl
@[simp] theorem fbWrite_panelOut (s : State) (a : Nat) (b : Byte) : (fbWrite s a b).panelOut = s.panelOut := rfl
@[simp] theorem fbWrite_rspOut (s : State) (a : Nat) (b : Byte) : (fbWrite s a b).rspOut = s.rspOut := rfl
@[simp] theorem fbWrite_cmdIn (s : State) (a : Nat) (b : Byte) : (fbWrite s a b).cmdIn = s.cmdIn := rfl
@[simp] theorem fbWrite_turns (s : State) (a : Nat) (b : Byte) : (fbWrite s a b).turns = s.turns := rfl
@[simp] theorem fbWrite_run (s : State) (a : Nat) (b : Byte) : (fbWrite s a b).run = s.run := rfl

@[simp] theorem stageWrite_params (s : State) (slot : Bool) (p : Nat) (w : Half) : (stageWrite s slot p w).params = s.params := rfl
@[simp] theorem stageWrite_fb (s : State) (slot : Bool) (p : Nat) (w : Half) : (stageWrite s slot p w).fb = s.fb := rfl
@[simp] theorem stageWrite_stage (s : State) (slot : Bool) (p : Nat) (w : Half) : (stageWrite s slot p w).stage = s.stage.set slot (Memory.write (s.stage.get slot) p w) := rfl
@[simp] theorem stageWrite_sel (s : State) (slot : Bool) (p : Nat) (w : Half) : (stageWrite s slot p w).sel = s.sel := rfl
@[simp] theorem stageWrite_row (s : State) (slot : Bool) (p : Nat) (w : Half) : (stageWrite s slot p w).row = s.row := rfl
@[simp] theorem stageWrite_phase (s : State) (slot : Bool) (p : Nat) (w : Half) : (stageWrite s slot p w).phase = s.phase := rfl
@[simp] theorem stageWrite_inflight (s : State) (slot : Bool) (p : Nat) (w : Half) : (stageWrite s slot p w).inflight = s.inflight := rfl
@[simp] theorem stageWrite_pending (s : State) (slot : Bool) (p : Nat) (w : Half) : (stageWrite s slot p w).pending = s.pending := rfl
@[simp] theorem stageWrite_panelOut (s : State) (slot : Bool) (p : Nat) (w : Half) : (stageWrite s slot p w).panelOut = s.panelOut := rfl
@[simp] theorem stageWrite_rspOut (s : State) (slot : Bool) (p : Nat) (w : Half) : (stageWrite s slot p w).rspOut = s.rspOut := rfl
@[simp] theorem stageWrite_cmdIn (s : State) (slot : Bool) (p : Nat) (w : Half) : (stageWrite s slot p w).cmdIn = s.cmdIn := rfl
@[simp] theorem stageWrite_turns (s : State) (slot : Bool) (p : Nat) (w : Half) : (stageWrite s slot p w).turns = s.turns := rfl
@[simp] theorem stageWrite_run (s : State) (slot : Bool) (p : Nat) (w : Half) : (stageWrite s slot p w).run = s.run := rfl

@[simp] theorem emit_params (syms : List Symbol) (s : State) : (emit syms s).params = s.params := rfl
@[simp] theorem emit_fb (syms : List Symbol) (s : State) : (emit syms s).fb = s.fb := rfl
@[simp] theorem emit_stage (syms : List Symbol) (s : State) : (emit syms s).stage = s.stage := rfl
@[simp] theorem emit_sel (syms : List Symbol) (s : State) : (emit syms s).sel = s.sel := rfl
@[simp] theorem emit_row (syms : List Symbol) (s : State) : (emit syms s).row = s.row := rfl
@[simp] theorem emit_phase (syms : List Symbol) (s : State) : (emit syms s).phase = s.phase := rfl
@[simp] theorem emit_inflight (syms : List Symbol) (s : State) : (emit syms s).inflight = s.inflight := rfl
@[simp] theorem emit_pending (syms : List Symbol) (s : State) : (emit syms s).pending = s.pending := rfl
@[simp] theorem emit_panelOut (syms : List Symbol) (s : State) : (emit syms s).panelOut = s.panelOut ++ syms := rfl
@[simp] theorem emit_rspOut (syms : List Symbol) (s : State) : (emit syms s).rspOut = s.rspOut := rfl
@[simp] theorem emit_cmdIn (syms : List Symbol) (s : State) : (emit syms s).cmdIn = s.cmdIn := rfl
@[simp] theorem emit_turns (syms : List Symbol) (s : State) : (emit syms s).turns = s.turns := rfl
@[simp] theorem emit_run (syms : List Symbol) (s : State) : (emit syms s).run = s.run := rfl

@[simp] theorem respond_params (st : Status) (d : Byte) (s : State) : (respond st d s).params = s.params := rfl
@[simp] theorem respond_fb (st : Status) (d : Byte) (s : State) : (respond st d s).fb = s.fb := rfl
@[simp] theorem respond_stage (st : Status) (d : Byte) (s : State) : (respond st d s).stage = s.stage := rfl
@[simp] theorem respond_sel (st : Status) (d : Byte) (s : State) : (respond st d s).sel = s.sel := rfl
@[simp] theorem respond_row (st : Status) (d : Byte) (s : State) : (respond st d s).row = s.row := rfl
@[simp] theorem respond_phase (st : Status) (d : Byte) (s : State) : (respond st d s).phase = .idle := rfl
@[simp] theorem respond_inflight (st : Status) (d : Byte) (s : State) : (respond st d s).inflight = s.inflight := rfl
@[simp] theorem respond_pending (st : Status) (d : Byte) (s : State) : (respond st d s).pending = s.pending := rfl
@[simp] theorem respond_panelOut (st : Status) (d : Byte) (s : State) : (respond st d s).panelOut = s.panelOut := rfl
@[simp] theorem respond_rspOut (st : Status) (d : Byte) (s : State) : (respond st d s).rspOut = s.rspOut ++ [responseWord st d] := rfl
@[simp] theorem respond_cmdIn (st : Status) (d : Byte) (s : State) : (respond st d s).cmdIn = s.cmdIn := rfl
@[simp] theorem respond_turns (st : Status) (d : Byte) (s : State) : (respond st d s).turns = s.turns := rfl
@[simp] theorem respond_run (st : Status) (d : Byte) (s : State) : (respond st d s).run = s.run := rfl

@[simp] theorem raise_params (e : Status) (s : State) : (raise e s).params = s.params := rfl
@[simp] theorem raise_fb (e : Status) (s : State) : (raise e s).fb = s.fb := rfl
@[simp] theorem raise_stage (e : Status) (s : State) : (raise e s).stage = s.stage := rfl
@[simp] theorem raise_sel (e : Status) (s : State) : (raise e s).sel = s.sel := rfl
@[simp] theorem raise_row (e : Status) (s : State) : (raise e s).row = s.row := rfl
@[simp] theorem raise_phase (e : Status) (s : State) : (raise e s).phase = .idle := rfl
@[simp] theorem raise_inflight (e : Status) (s : State) : (raise e s).inflight = s.inflight := rfl
@[simp] theorem raise_pending (e : Status) (s : State) : (raise e s).pending = s.pending := rfl
@[simp] theorem raise_panelOut (e : Status) (s : State) : (raise e s).panelOut = s.panelOut := rfl
@[simp] theorem raise_rspOut (e : Status) (s : State) : (raise e s).rspOut = s.rspOut ++ [responseWord e 0x00#8] := rfl
@[simp] theorem raise_cmdIn (e : Status) (s : State) : (raise e s).cmdIn = s.cmdIn := rfl
@[simp] theorem raise_turns (e : Status) (s : State) : (raise e s).turns = s.turns := rfl
@[simp] theorem raise_run (e : Status) (s : State) : (raise e s).run = s.run := rfl

@[simp] theorem setInflight_params (slot v : Bool) (s : State) : (setInflight slot v s).params = s.params := rfl
@[simp] theorem setInflight_fb (slot v : Bool) (s : State) : (setInflight slot v s).fb = s.fb := rfl
@[simp] theorem setInflight_stage (slot v : Bool) (s : State) : (setInflight slot v s).stage = s.stage := rfl
@[simp] theorem setInflight_sel (slot v : Bool) (s : State) : (setInflight slot v s).sel = s.sel := rfl
@[simp] theorem setInflight_row (slot v : Bool) (s : State) : (setInflight slot v s).row = s.row := rfl
@[simp] theorem setInflight_phase (slot v : Bool) (s : State) : (setInflight slot v s).phase = s.phase := rfl
@[simp] theorem setInflight_inflight (slot v : Bool) (s : State) : (setInflight slot v s).inflight = s.inflight.set slot v := rfl
@[simp] theorem setInflight_pending (slot v : Bool) (s : State) : (setInflight slot v s).pending = s.pending := rfl
@[simp] theorem setInflight_panelOut (slot v : Bool) (s : State) : (setInflight slot v s).panelOut = s.panelOut := rfl
@[simp] theorem setInflight_rspOut (slot v : Bool) (s : State) : (setInflight slot v s).rspOut = s.rspOut := rfl
@[simp] theorem setInflight_cmdIn (slot v : Bool) (s : State) : (setInflight slot v s).cmdIn = s.cmdIn := rfl
@[simp] theorem setInflight_turns (slot v : Bool) (s : State) : (setInflight slot v s).turns = s.turns := rfl
@[simp] theorem setInflight_run (slot v : Bool) (s : State) : (setInflight slot v s).run = s.run := rfl

@[simp] theorem advanceBand_params (s : State) : (advanceBand s).params = s.params := rfl
@[simp] theorem advanceBand_fb (s : State) : (advanceBand s).fb = s.fb := rfl
@[simp] theorem advanceBand_stage (s : State) : (advanceBand s).stage = s.stage := rfl
@[simp] theorem advanceBand_sel (s : State) : (advanceBand s).sel = !s.sel := by simp [advanceBand]
@[simp] theorem advanceBand_row (s : State) : (advanceBand s).row = BitVec.ofNat 16 (s.row.toNat + s.params.bandHeight) := rfl
@[simp] theorem advanceBand_phase (s : State) : (advanceBand s).phase = s.phase := rfl
@[simp] theorem advanceBand_inflight (s : State) : (advanceBand s).inflight = s.inflight := rfl
@[simp] theorem advanceBand_pending (s : State) : (advanceBand s).pending = s.pending := rfl
@[simp] theorem advanceBand_panelOut (s : State) : (advanceBand s).panelOut = s.panelOut := rfl
@[simp] theorem advanceBand_rspOut (s : State) : (advanceBand s).rspOut = s.rspOut := rfl
@[simp] theorem advanceBand_cmdIn (s : State) : (advanceBand s).cmdIn = s.cmdIn := rfl
@[simp] theorem advanceBand_turns (s : State) : (advanceBand s).turns = s.turns := rfl
@[simp] theorem advanceBand_run (s : State) : (advanceBand s).run = s.run := rfl

@[simp] theorem issueBandWrite_params (r : Half) (slot : Bool) (s : State) : (issueBandWrite r slot s).params = s.params := rfl
@[simp] theorem issueBandWrite_fb (r : Half) (slot : Bool) (s : State) : (issueBandWrite r slot s).fb = s.fb := rfl
@[simp] theorem issueBandWrite_stage (r : Half) (slot : Bool) (s : State) : (issueBandWrite r slot s).stage = s.stage := rfl
@[simp] theorem issueBandWrite_sel (r : Half) (slot : Bool) (s : State) : (issueBandWrite r slot s).sel = s.sel := rfl
@[simp] theorem issueBandWrite_row (r : Half) (slot : Bool) (s : State) : (issueBandWrite r slot s).row = s.row := rfl
@[simp] theorem issueBandWrite_phase (r : Half) (slot : Bool) (s : State) : (issueBandWrite r slot s).phase = s.phase := rfl
@[simp] theorem issueBandWrite_inflight (r : Half) (slot : Bool) (s : State) : (issueBandWrite r slot s).inflight = s.inflight.set slot true := rfl
@[simp] theorem issueBandWrite_pending (r : Half) (slot : Bool) (s : State) : (issueBandWrite r slot s).pending = s.pending ++ [⟨r, slot⟩] := rfl
@[simp] theorem issueBandWrite_panelOut (r : Half) (slot : Bool) (s : State) : (issueBandWrite r slot s).panelOut = s.panelOut := rfl
@[simp] theorem issueBandWrite_rspOut (r : Half) (slot : Bool) (s : State) : (issueBandWrite r slot s).rspOut = s.rspOut := rfl
@[simp] theorem issueBandWrite_cmdIn (r : Half) (slot : Bool) (s : State) : (issueBandWrite r slot s).cmdIn = s.cmdIn := rfl
@[simp] theorem issueBandWrite_turns (r : Half) (slot : Bool) (s : State) : (issueBandWrite r slot s).turns = s.turns := rfl
@[simp] theorem issueBandWrite_run (r : Half) (slot : Bool) (s : State) : (issueBandWrite r slot s).run = s.run := rfl

@[simp] theorem resetEvent_params (n : Nat) (s : State) : (resetEvent n s).params = s.params := rfl
@[simp] theorem resetEvent_fb (n : Nat) (s : State) : (resetEvent n s).fb = [] := rfl
@[simp] theorem resetEvent_stage (n : Nat) (s : State) : (resetEvent n s).stage = ⟨[], []⟩ := rfl
@[simp] theorem resetEvent_sel (n : Nat) (s : State) : (resetEvent n s).sel = false := rfl
@[simp] theorem resetEvent_row (n : Nat) (s : State) : (resetEvent n s).row = 0#16 := rfl
@[simp] theorem resetEvent_phase (n : Nat) (s : State) : (resetEvent n s).phase = .idle := rfl
@[simp] theorem resetEvent_inflight (n : Nat) (s : State) : (resetEvent n s).inflight = ⟨false, false⟩ := rfl
@[simp] theorem resetEvent_pending (n : Nat) (s : State) : (resetEvent n s).pending = [] := rfl
@[simp] theorem resetEvent_panelOut (n : Nat) (s : State) : (resetEvent n s).panelOut = s.panelOut ++ (nextFrame s).take n := rfl
@[simp] theorem resetEvent_rspOut (n : Nat) (s : State) : (resetEvent n s).rspOut = s.rspOut := rfl
@[simp] theorem resetEvent_cmdIn (n : Nat) (s : State) : (resetEvent n s).cmdIn = s.cmdIn := rfl
@[simp] theorem resetEvent_turns (n : Nat) (s : State) : (resetEvent n s).turns = s.turns := rfl
@[simp] theorem resetEvent_run (n : Nat) (s : State) : (resetEvent n s).run = s.run + 1 := rfl

end Sys2Proof.Machine
end

