-- ==== Sys2Proof/Laws/Ops.lean ====
section
/-! SUPPORT. One specification lemma per shared operation: everything it can do. Callers cite it and do not
unfold the operation. -/

namespace Sys2Proof.Machine

/-! ### Folds over a range -/

/-- A fact that holds at the start and that every turn of a loop keeps, holds at the end. -/
theorem foldl_range_induct {σ : Type} (f : σ → Nat → σ) (P : Nat → σ → Prop) (n : Nat) (s : σ)
    (h0 : P 0 s) (hs : ∀ k t, k < n → P k t → P (k + 1) (f t k)) :
    P n ((List.range n).foldl f s) := by
  induction n with
  | zero => simpa using h0
  | succ n ih =>
    rw [List.range_succ, List.foldl_append]
    exact hs n _ (Nat.lt_succ_self n) (ih fun k t hk => hs k t (Nat.lt_succ_of_lt hk))

/-! ### FB -/

theorem fbRead_fbWrite (s : State) (a b : Nat) (v : Byte) :
    fbRead (fbWrite s a v) b = if b = a then v else fbRead s b := by
  unfold fbRead
  simp only [fbWrite_fb, fbWrite_run, Memory.read_write]
  split <;> simp

/-- The three bytes of a pixel after it is written, and every other byte as before. -/
theorem fbRead_fbWritePixel (s : State) (a b : Nat) (c : Color) :
    fbRead (fbWritePixel s a c) b =
      if b = a then red c else if b = a + 1 then green c else if b = a + 2 then blue c
      else fbRead s b := by
  unfold fbWritePixel
  simp only [fbRead_fbWrite]
  by_cases h0 : b = a
  · subst h0; simp
  · by_cases h1 : b = a + 1
    · subst h1; simp
    · by_cases h2 : b = a + 2 <;> simp [h0, h1, h2]

/-- Writing a pixel changes FB and nothing else. -/
theorem fbWritePixel_eq (s : State) (a : Nat) (c : Color) :
    fbWritePixel s a c = { s with fb := (fbWritePixel s a c).fb } := rfl

theorem fbWritePixel_wf {s : State} {a size : Nat} (c : Color)
    (h : Memory.wf size s.fb = true) (ha : a + 2 < size) :
    Memory.wf size (fbWritePixel s a c).fb = true :=
  Memory.wf_write _ (Memory.wf_write _ (Memory.wf_write _ h (by omega)) (by omega)) ha

/-- FILL changes FB and nothing else. -/
theorem fbFill_eq (s : State) (c : Color) : fbFill s c = { s with fb := (fbFill s c).fb } := by
  unfold fbFill
  refine foldl_range_induct (fun t p => fbWritePixel t (3 * p) c)
    (fun _ t => t = { s with fb := t.fb }) _ s rfl ?_
  intro k t _ ht
  rw [fbWritePixel_eq]
  generalize (fbWritePixel t (3 * k) c).fb = m
  rw [ht]

/-- What FILL leaves at an address: the colour's byte below FB_BYTES, the byte as before elsewhere. -/
theorem fbRead_fbFill (s : State) (c : Color) (b : Nat) :
    fbRead (fbFill s c) b =
      if b < 3 * (s.params.width * s.params.height) then
        (if b % 3 = 0 then red c else if b % 3 = 1 then green c else blue c)
      else fbRead s b := by
  unfold fbFill
  refine foldl_range_induct (fun t p => fbWritePixel t (3 * p) c)
    (fun k t => fbRead t b = if b < 3 * k then
        (if b % 3 = 0 then red c else if b % 3 = 1 then green c else blue c)
      else fbRead s b) _ s (by simp) ?_
  intro k t _ ht
  rw [fbRead_fbWritePixel, ht]
  by_cases h0 : b = 3 * k
  · have : b % 3 = 0 := by omega
    have h' : b < 3 * (k + 1) := by omega
    simp [h0]
  · by_cases h1 : b = 3 * k + 1
    · have e : (3 * k + 1) % 3 = 1 := by omega
      have h' : 3 * k + 1 < 3 * (k + 1) := by omega
      simp [h1, e, h']
    · by_cases h2 : b = 3 * k + 2
      · have e : (3 * k + 2) % 3 = 2 := by omega
        have h' : 3 * k + 2 < 3 * (k + 1) := by omega
        simp [h2, e, h']
      · have : (b < 3 * (k + 1)) ↔ (b < 3 * k) := by omega
        simp [h0, h1, h2, this]

theorem fbFill_wf {s : State} (c : Color) (h : Memory.wf s.params.fbBytes s.fb = true) :
    Memory.wf s.params.fbBytes (fbFill s c).fb = true := by
  unfold fbFill
  refine foldl_range_induct (fun t p => fbWritePixel t (3 * p) c)
    (fun _ t => Memory.wf s.params.fbBytes t.fb = true) _ s h ?_
  intro k t hk ht
  refine fbWritePixel_wf c ht ?_
  unfold Params.fbBytes
  omega

/-! ### STAGE -/

/-- What a slot holds at an index after a staging write. -/
theorem read_stageWrite (s : State) (slot other : Bool) (p q : Nat) (w : Half) :
    Memory.read ((stageWrite s slot p w).stage.get other) q =
      if other = slot ∧ q = p then some w else Memory.read (s.stage.get other) q := by
  simp only [stageWrite_stage, TwoSlots.get_set]
  by_cases h : other = slot
  · subst h; simp [Memory.read_write]
  · simp [h]

/-! ### Band conversion -/

/-- A row of a band leaves every field but the slot as it was. -/
theorem convertRow_eq (r : Nat) (slot : Bool) (s : State) (j : Nat) :
    convertRow r slot s j =
      { s with stage := s.stage.set slot ((convertRow r slot s j).stage.get slot) } := by
  unfold convertRow
  refine foldl_range_induct (convertPixel r slot j)
    (fun _ t => t = { s with stage := s.stage.set slot (t.stage.get slot) }) _ s (by simp) ?_
  intro k t _ ht
  unfold convertPixel
  rw [ht]
  simp [stageWrite]

/-- ConvertBand leaves every field but the slot it writes as it was (41_band_converter.md R108). -/
theorem convertRows_eq (r : Nat) (slot : Bool) (s : State) :
    convertRows r slot s =
      { s with stage := s.stage.set slot ((convertRows r slot s).stage.get slot) } := by
  unfold convertRows
  refine foldl_range_induct (convertRow r slot)
    (fun _ t => t = { s with stage := s.stage.set slot (t.stage.get slot) }) _ s (by simp) ?_
  intro k t _ ht
  rw [convertRow_eq]
  generalize (convertRow r slot t k).stage.get slot = m
  rw [ht]
  simp

theorem fbRead_congr {s t : State} (hf : t.fb = s.fb) (hr : t.run = s.run) (a : Nat) :
    fbRead t a = fbRead s a := by simp [fbRead, hf, hr]

theorem nativeAt_congr {s t : State} (hf : t.fb = s.fb) (hr : t.run = s.run) (a : Nat) :
    nativeAt t a = nativeAt s a := by simp [nativeAt, fbRead_congr hf hr]

/-- What one row of a band writes, by column, and what it leaves. -/
theorem read_convertRow (r : Nat) (slot : Bool) (s : State) (j q : Nat) :
    Memory.read ((convertRow r slot s j).stage.get slot) q =
      if j * s.params.width ≤ q ∧ q < j * s.params.width + s.params.width then
        some (nativeAt s ((r + j) * s.params.width * 3 + (q - j * s.params.width) * 3))
      else Memory.read (s.stage.get slot) q := by
  unfold convertRow
  have h := foldl_range_induct (convertPixel r slot j) (fun n t => t.params = s.params ∧
      t.fb = s.fb ∧ t.run = s.run ∧ Memory.read (t.stage.get slot) q =
      if j * s.params.width ≤ q ∧ q < j * s.params.width + n then
        some (nativeAt s ((r + j) * s.params.width * 3 + (q - j * s.params.width) * 3))
      else Memory.read (s.stage.get slot) q) s.params.width s
    ⟨rfl, rfl, rfl, by rw [if_neg (by omega)]⟩ ?_
  · exact h.2.2.2
  · rintro k t _ ⟨hp, hf, hr, ht⟩
    refine ⟨hp, hf, hr, ?_⟩
    unfold convertPixel
    rw [read_stageWrite, ht, nativeAt_congr hf hr, hp]
    simp only [true_and, Params.stageIndex, Params.pixOff]
    by_cases hq : q = j * s.params.width + k
    · subst hq
      rw [if_pos rfl, if_pos (by omega)]
      congr 2
      rw [Nat.add_mul, Nat.add_sub_cancel_left]
    · rw [if_neg hq]
      have : (j * s.params.width ≤ q ∧ q < j * s.params.width + (k + 1)) ↔
          (j * s.params.width ≤ q ∧ q < j * s.params.width + k) := by omega
      simp only [this]

/-- ConvertBand as a whole (41_band_converter.md R105): every word of the slot, and nothing beyond it. -/
theorem read_convertRows (r : Nat) (slot : Bool) (s : State) (q : Nat) :
    Memory.read ((convertRows r slot s).stage.get slot) q =
      if q < s.params.bandPixels then some (nativeAt s (3 * (r * s.params.width + q)))
      else Memory.read (s.stage.get slot) q := by
  unfold convertRows
  have h := foldl_range_induct (convertRow r slot) (fun n t => t.params = s.params ∧ t.fb = s.fb ∧
      t.run = s.run ∧ Memory.read (t.stage.get slot) q =
      if q < n * s.params.width then some (nativeAt s (3 * (r * s.params.width + q)))
      else Memory.read (s.stage.get slot) q) s.params.bandHeight s ⟨rfl, rfl, rfl, by simp⟩ ?_
  · rw [h.2.2.2, Params.bandPixels, Nat.mul_comm]
  · rintro k t _ ⟨hp, hf, hr, ht⟩
    have he := convertRow_eq r slot t k
    refine ⟨by rw [he]; exact hp, by rw [he]; exact hf, by rw [he]; exact hr, ?_⟩
    rw [read_convertRow, ht, nativeAt_congr hf hr, hp]
    have hk : (k + 1) * s.params.width = k * s.params.width + s.params.width := by ring
    by_cases h1 : k * s.params.width ≤ q ∧ q < k * s.params.width + s.params.width
    · rw [if_pos h1, if_pos (by omega)]
      congr 2
      obtain ⟨d, rfl⟩ := Nat.exists_eq_add_of_le h1.1
      rw [Nat.add_sub_cancel_left]; ring
    · rw [if_neg h1]
      have : (q < (k + 1) * s.params.width) ↔ (q < k * s.params.width) := by omega
      simp only [this]

theorem convertRow_wf {r : Nat} {slot : Bool} {s : State} {j size : Nat}
    (h : Memory.wf size (s.stage.get slot) = true) (hj : (j + 1) * s.params.width ≤ size) :
    Memory.wf size ((convertRow r slot s j).stage.get slot) = true := by
  unfold convertRow
  have := foldl_range_induct (convertPixel r slot j) (fun _ t => t.params = s.params ∧
      Memory.wf size (t.stage.get slot) = true) s.params.width s ⟨rfl, h⟩ ?_
  · exact this.2
  · rintro k t hk ⟨hp, ht⟩
    refine ⟨hp, ?_⟩
    unfold convertPixel
    simp only [stageWrite_stage, TwoSlots.get_set_same, hp, Params.stageIndex]
    exact Memory.wf_write _ ht (by have : (j + 1) * s.params.width = j * s.params.width + s.params.width := by ring
                                   omega)

/-- ConvertBand keeps the canonical form of the slot it writes. -/
theorem convertRows_wf {r : Nat} {slot : Bool} {s : State}
    (h : Memory.wf s.params.bandPixels (s.stage.get slot) = true) :
    Memory.wf s.params.bandPixels ((convertRows r slot s).stage.get slot) = true := by
  unfold convertRows
  have := foldl_range_induct (convertRow r slot) (fun _ t => t.params = s.params ∧
      Memory.wf s.params.bandPixels (t.stage.get slot) = true) s.params.bandHeight s ⟨rfl, h⟩ ?_
  · exact this.2
  · rintro k t hk ⟨hp, ht⟩
    refine ⟨by rw [convertRow_eq]; exact hp, convertRow_wf ht ?_⟩
    rw [hp, Params.bandPixels, Nat.mul_comm s.params.width]
    exact Nat.mul_le_mul_right _ hk

/-- What ConvertBand can do: it goes on exactly on a slot not in flight and a band in the frame. -/
theorem convertBand_next {r : Nat} {slot : Bool} {s t : State} (h : convertBand r slot s = .next t) :
    s.inflight.get slot = false ∧ BandInRange s.params r ∧ t = convertRows r slot s := by
  unfold convertBand at h
  split at h
  · cases h
  · rename_i hin
    split at h
    · rename_i hb
      exact ⟨by simpa using hin, hb, by cases h; rfl⟩
    · cases h

theorem convertBand_ok {r : Nat} {slot : Bool} {s : State} (hin : s.inflight.get slot = false)
    (hb : BandInRange s.params r) : convertBand r slot s = .next (convertRows r slot s) := by
  simp [convertBand, hin, hb]

/-! ### Emission -/

/-- What BandWrite can do: on a band in the frame it emits the frame and changes nothing else. -/
theorem bandWrite_next {r : Half} {slot : Bool} {s t : State} (h : bandWrite r slot s = .next t) :
    BandInRange s.params r.toNat ∧ t = emit (frame s r slot) s := by
  unfold bandWrite at h
  split at h
  · rename_i hb; exact ⟨hb, by cases h; rfl⟩
  · cases h

theorem bandWrite_ok {r : Half} {slot : Bool} {s : State} (hb : BandInRange s.params r.toNat) :
    bandWrite r slot s = .next (emit (frame s r slot) s) := by
  simp [bandWrite, hb]

/-- The frame depends on the parameters, the slot and the reset count alone. -/
theorem frame_congr {s t : State} (hp : t.params = s.params) {slot : Bool}
    (hs : t.stage.get slot = s.stage.get slot) (hr : t.run = s.run) (r : Half) :
    frame t r slot = frame s r slot := by
  simp [frame, slotSymbols, stageRead, hp, hs, hr]

theorem flatMap_range_length_two {α : Type} (f : Nat → List α) (h : ∀ k, (f k).length = 2) (n : Nat) :
    ((List.range n).flatMap f).length = 2 * n := by
  induction n with
  | zero => rfl
  | succ n ih => rw [List.range_succ, List.flatMap_append]; simp [ih, h]; omega

@[simp] theorem frameHeader_length (p : Params) (r : Half) : (frameHeader p r).length = 11 := rfl

theorem slotSymbols_length (s : State) (slot : Bool) :
    (slotSymbols s slot).length = s.params.bandBytes :=
  flatMap_range_length_two _ (fun _ => rfl) _

/-! ### Sequencing -/

/-- A sequence goes on exactly when both its parts do. -/
theorem andThen_next {o : Host.Outcome State Fault Refusal}
    {f : State → Host.Outcome State Fault Refusal} {u : State} (h : andThen o f = .next u) :
    ∃ t, o = .next t ∧ f t = .next u := by
  cases o with
  | next t => exact ⟨t, rfl, h⟩
  | fault e => cases h
  | refused e => cases h

@[simp] theorem andThen_of_next (t : State) (f : State → Host.Outcome State Fault Refusal) :
    andThen (.next t) f = f t := rfl

@[simp] theorem andThen_of_fault (e : Fault) (f : State → Host.Outcome State Fault Refusal) :
    andThen (.fault e) f = .fault e := rfl

@[simp] theorem andThen_of_refused (e : Refusal) (f : State → Host.Outcome State Fault Refusal) :
    andThen (.refused e) f = .refused e := rfl

end Sys2Proof.Machine
end

