-- ==== Sys2Proof/Laws/PerInstr.lean ====
section
/-! SUPPORT. The family OpcodeByte, one lemma per command: bits 63:56 of a command's word are its opcode
(30_encoding.md R61, R62). -/

namespace Sys2Proof.Laws.OpcodeByte

/-- Bits 63:56 of the command's word are its opcode. -/
def Statement (i : Instr) : Prop := opField (encode i) = i.opcode

theorem writePixel (x y : Nat) (color : Color) : Statement (.writePixel x y color) := by
  apply BitVec.eq_of_toNat_eq
  have := color.isLt
  rw [opField_toNat, encode_writePixel_toNat, Instr.opcode, BitVec.toNat_ofNat]; omega

theorem fill (color : Color) : Statement (.fill color) := by
  apply BitVec.eq_of_toNat_eq
  have := color.isLt
  rw [opField_toNat, encode_fill_toNat, Instr.opcode, BitVec.toNat_ofNat]; omega

theorem readFb (addr : Nat) : Statement (.readFb addr) := by
  apply BitVec.eq_of_toNat_eq
  rw [opField_toNat, encode_readFb_toNat, Instr.opcode, BitVec.toNat_ofNat]; omega

theorem convertBand (rowStart : Nat) : Statement (.convertBand rowStart) := by
  apply BitVec.eq_of_toNat_eq
  rw [opField_toNat, encode_convertBand_toNat, Instr.opcode, BitVec.toNat_ofNat]; omega

theorem refresh : Statement .refresh := by
  apply BitVec.eq_of_toNat_eq
  rw [opField_toNat, encode_refresh_toNat, Instr.opcode, BitVec.toNat_ofNat]; omega

end Sys2Proof.Laws.OpcodeByte
end

