-- ==== Sys2Proof/Laws/Step.lean ====
section
/-! SUPPORT. What each command, each scheduler step and one step of the block can do, once each. -/

namespace Sys2Proof.Machine

/-! ### The turn and the command port -/

@[simp] theorem takeTurn_params (s : State) : (takeTurn s).2.params = s.params := by
  unfold takeTurn; split <;> rfl

/-- Taking a turn changes the list of turns and nothing else. -/
theorem takeTurn_state (s : State) : (takeTurn s).2 = { s with turns := s.turns.tail } := by
  unfold takeTurn
  split
  · rename_i h
    rw [h]; simp only [List.tail_nil]
    cases s; simp_all
  · rename_i h; rw [h]; rfl

theorem takeTurn_turn (s : State) : (takeTurn s).1 = s.turns.head?.getD .producerFirst := by
  unfold takeTurn
  split <;> rename_i h <;> rw [h] <;> rfl

/-! ### Commands -/

theorem execWritePixel_in {x y : Nat} {s : State} (h : PixelInRange s.params x y) (c : Color) :
    execWritePixel x y c s =
      .next (respond .ok 0x00#8 (fbWritePixel s (s.params.pixOff x y) c)) := if_pos h

theorem execWritePixel_out {x y : Nat} {s : State} (h : ¬ PixelInRange s.params x y) (c : Color) :
    execWritePixel x y c s = .next (raise .coordOutOfRange s) := if_neg h

theorem execReadFb_in {a : Nat} {s : State} (h : AddrInRange s.params a) :
    execReadFb a s = .next (respond .ok (fbRead s a) s) := if_pos h

theorem execReadFb_out {a : Nat} {s : State} (h : ¬ AddrInRange s.params a) :
    execReadFb a s = .next (raise .addrOutOfRange s) := if_neg h

theorem execConvertBand_in {r : Nat} {s : State} (h : BandInRange s.params r)
    (hin : s.inflight.get s.sel = false) :
    execConvertBand r s = .next (respond .ok 0x00#8 (convertRows r s.sel s)) := by
  simp [execConvertBand, h, convertBand_ok hin h]

theorem execConvertBand_out {r : Nat} {s : State} (h : ¬ BandInRange s.params r) :
    execConvertBand r s = .next (raise .rowOutOfRange s) := if_neg h

/-- What CONVERT_BAND can do when it goes on. -/
theorem execConvertBand_next {r : Nat} {s t : State} (h : execConvertBand r s = .next t) :
    (BandInRange s.params r ∧ s.inflight.get s.sel = false ∧
      t = respond .ok 0x00#8 (convertRows r s.sel s)) ∨
    (¬ BandInRange s.params r ∧ t = raise .rowOutOfRange s) := by
  by_cases hb : BandInRange s.params r
  · left
    unfold execConvertBand at h
    rw [if_pos hb] at h
    obtain ⟨u, hu, h⟩ := andThen_next h
    obtain ⟨h1, _, rfl⟩ := convertBand_next hu
    exact ⟨hb, h1, by cases h; rfl⟩
  · right
    rw [execConvertBand_out hb] at h
    exact ⟨hb, by cases h; rfl⟩

/-! ### Scheduler steps -/

/-- The convert step (42_transfer_scheduler.md R121). -/
theorem convertStep_next {s t : State} (h : convertStep s = .next t) :
    s.inflight.get s.sel = false ∧ BandInRange s.params s.row.toNat ∧
      t = { convertRows s.row.toNat s.sel s with phase := .write } := by
  obtain ⟨u, hu, h⟩ := andThen_next h
  obtain ⟨h1, h2, rfl⟩ := convertBand_next hu
  exact ⟨h1, h2, by cases h; rfl⟩

theorem convertStep_eq {s : State} (hin : s.inflight.get s.sel = false)
    (hb : BandInRange s.params s.row.toNat) :
    convertStep s = .next { convertRows s.row.toNat s.sel s with phase := .write } := by
  unfold convertStep
  rw [convertBand_ok hin hb, andThen_of_next]

/-- The state after the band-write of the write step: one frame out, `sel` flipped, `row` advanced. -/
def afterWrite (s : State) : State :=
  { s with
    panelOut := s.panelOut ++ frame s s.row s.sel
    inflight := s.inflight.set s.sel false
    sel := !s.sel
    row := BitVec.ofNat 16 (s.row.toNat + s.params.bandHeight) }

theorem writeStep_eq {s : State} (hb : BandInRange s.params s.row.toNat) :
    writeStep s = .next (loopTest (afterWrite s)) := by
  unfold writeStep
  rw [bandWrite_ok (s := setInflight s.sel true s) hb, andThen_of_next]
  congr 2
  simp only [afterWrite, advanceBand, setInflight, emit, TwoSlots.set_set, Bool.xor_true]
  rfl

/-- The write step (42_transfer_scheduler.md R122). -/
theorem writeStep_next {s t : State} (h : writeStep s = .next t) :
    BandInRange s.params s.row.toNat ∧ t = loopTest (afterWrite s) := by
  have h' := h
  obtain ⟨u, hu, _⟩ := andThen_next h
  have hb := (bandWrite_next hu).1
  refine ⟨hb, ?_⟩
  rw [writeStep_eq (s := s) hb] at h'
  cases h'; rfl

/-- The state after the producer step, before its test for DRAIN. -/
def afterProduce (s : State) : State :=
  { convertRows s.row.toNat s.sel s with
    inflight := s.inflight.set s.sel true
    pending := s.pending ++ [⟨s.row, s.sel⟩]
    sel := !s.sel
    row := BitVec.ofNat 16 (s.row.toNat + s.params.bandHeight) }

theorem producerStep_eq {s : State} (hin : s.inflight.get s.sel = false)
    (hb : BandInRange s.params s.row.toNat) :
    producerStep s = .next (drainTest (afterProduce s)) := by
  unfold producerStep
  rw [convertBand_ok hin hb, andThen_of_next]
  congr 2
  unfold afterProduce
  rw [convertRows_eq]
  simp [advanceBand, issueBandWrite, setInflight]

/-- The producer step (42_transfer_scheduler.md R132). -/
theorem producerStep_next {s t : State} (h : producerStep s = .next t) :
    s.inflight.get s.sel = false ∧ BandInRange s.params s.row.toNat ∧
      t = drainTest (afterProduce s) := by
  have h' := h
  obtain ⟨u, hu, _⟩ := andThen_next h
  obtain ⟨h1, h2, _⟩ := convertBand_next hu
  rw [producerStep_eq h1 h2] at h'
  exact ⟨h1, h2, by cases h'; rfl⟩

/-- The state after the consumer step for the entry `e` with `rest` behind it. -/
def afterConsume (e : BandWriteReq) (rest : List BandWriteReq) (s : State) : State :=
  { s with
    panelOut := s.panelOut ++ frame s e.row e.slot
    pending := rest
    inflight := s.inflight.set e.slot false }

theorem consumerStep_eq {e : BandWriteReq} {rest : List BandWriteReq} {s : State}
    (hb : BandInRange s.params e.row.toNat) :
    consumerStep e rest s = .next (afterConsume e rest s) := by
  unfold consumerStep
  rw [bandWrite_ok hb]
  rfl

/-- The consumer step (42_transfer_scheduler.md R133). -/
theorem consumerStep_next {e : BandWriteReq} {rest : List BandWriteReq} {s t : State}
    (h : consumerStep e rest s = .next t) :
    BandInRange s.params e.row.toNat ∧ t = afterConsume e rest s := by
  have h' := h
  obtain ⟨u, hu, _⟩ := andThen_next h
  have hb := (bandWrite_next hu).1
  rw [consumerStep_eq hb] at h'
  exact ⟨hb, by cases h'; rfl⟩

/-- What a step of the block with OVERLAP = 1 can do during a REFRESH: a producer step, a consumer step,
completion, or waiting on the backend. -/
theorem overlapStep_next {turn : Turn} {s t : State} (h : overlapStep turn s = .next t) :
    (s.phase = .convert ∧ producerStep s = .next t) ∨
    (∃ e rest, s.pending = e :: rest ∧ turn ≠ .backendBusy ∧ consumerStep e rest s = .next t) ∨
    (s.phase = .drain ∧ s.pending = [] ∧ t = respond .ok 0x00#8 s) ∨
    (turn = .backendBusy ∧ s.pending ≠ [] ∧ producerEnabled s = false ∧ t = s) := by
  have hp : producerEnabled s = true → s.phase = .convert := by
    intro hp; simp [producerEnabled] at hp; exact hp.1
  unfold overlapStep at h
  split at h
  · rename_i hpend
    split at h
    · rename_i he; exact .inl ⟨hp he, h⟩
    · split at h
      · rename_i hd; cases h; exact .inr (.inr (.inl ⟨hd, hpend, rfl⟩))
      · cases h
  · rename_i e rest hpend
    split at h
    · rename_i hb
      split at h
      · rename_i he; exact .inl ⟨hp he, h⟩
      · rename_i he; cases h
        exact .inr (.inr (.inr ⟨hb, by simp [hpend], by simpa using he, rfl⟩))
    · rename_i hb
      split at h
      · exact .inr (.inl ⟨e, rest, hpend, hb, h⟩)
      · split at h
        · rename_i he; exact .inl ⟨hp he, h⟩
        · exact .inr (.inl ⟨e, rest, hpend, hb, h⟩)

/-- OVERLAP = 0, CONVERT: the convert step. -/
theorem refreshStep_convert {turn : Turn} {s : State} (hp : s.phase = .convert)
    (ho : s.params.overlap = false) : refreshStep turn s = convertStep s := by
  unfold refreshStep; rw [hp, ho]

/-- OVERLAP = 0, WRITE: the write step, once the backend accepts. -/
theorem refreshStep_write {turn : Turn} {s : State} (hp : s.phase = .write)
    (ho : s.params.overlap = false) :
    refreshStep turn s = if turn = .backendBusy then .next s else writeStep s := by
  unfold refreshStep; rw [hp, ho]

/-- OVERLAP = 1, CONVERT or DRAIN: producer, consumer or completion. -/
theorem refreshStep_overlap {turn : Turn} {s : State} (hp : s.phase = .convert ∨ s.phase = .drain)
    (ho : s.params.overlap = true) : refreshStep turn s = overlapStep turn s := by
  unfold refreshStep; rcases hp with hp | hp <;> rw [hp, ho]

theorem producerEnabled_iff (s : State) :
    producerEnabled s = true ↔ s.phase = .convert ∧ s.inflight.get s.sel = false := by
  simp [producerEnabled]

/-- Nothing pending: the producer, completion, or no step. -/
theorem overlapStep_nil {turn : Turn} {s : State} (h : s.pending = []) :
    overlapStep turn s = if producerEnabled s then producerStep s
      else if s.phase = .drain then .next (respond .ok 0x00#8 s) else .fault .noStepEnabled := by
  unfold overlapStep; rw [h]

/-- A band-write pending: the producer or the consumer by the turn, or waiting on the backend. -/
theorem overlapStep_cons {turn : Turn} {s : State} {e : BandWriteReq} {rest : List BandWriteReq}
    (h : s.pending = e :: rest) :
    overlapStep turn s = if turn = .backendBusy then
        if producerEnabled s then producerStep s else .next s
      else if turn = .consumerFirst then consumerStep e rest s
      else if producerEnabled s then producerStep s else consumerStep e rest s := by
  unfold overlapStep; rw [h]

/-- The loop goes on while the next row lies in the frame (42_transfer_scheduler.md R122). -/
theorem loopTest_lt {s : State} (h : s.row.toNat < s.params.height) :
    loopTest s = { s with phase := .convert } := if_pos h

/-- The loop ends at the bottom edge (42_transfer_scheduler.md R123). -/
theorem loopTest_ge {s : State} (h : s.params.height ≤ s.row.toNat) :
    loopTest s = respond .ok 0x00#8 s := if_neg (Nat.not_lt.mpr h)

theorem drainTest_lt {s : State} (h : s.row.toNat < s.params.height) : drainTest s = s :=
  if_neg (Nat.not_le.mpr h)

theorem drainTest_ge {s : State} (h : s.params.height ≤ s.row.toNat) :
    drainTest s = { s with phase := .drain } := if_pos h

/-- What the scheduler can do during a REFRESH, in either variant. -/
theorem refreshStep_next {turn : Turn} {s t : State} (h : refreshStep turn s = .next t)
    (hi : s.phase ≠ .idle) :
    (s.params.overlap = false ∧ s.phase = .convert ∧ convertStep s = .next t) ∨
    (s.params.overlap = false ∧ s.phase = .write ∧ turn ≠ .backendBusy ∧ writeStep s = .next t) ∨
    (s.params.overlap = false ∧ s.phase = .write ∧ turn = .backendBusy ∧ t = s) ∨
    (s.params.overlap = true ∧ (s.phase = .convert ∨ s.phase = .drain) ∧
      overlapStep turn s = .next t) := by
  unfold refreshStep at h
  split at h
  · rename_i hp; exact absurd hp hi
  · rename_i hp ho; exact .inl ⟨ho, hp, h⟩
  · rename_i hp ho
    split at h
    · rename_i hb; cases h; exact .inr (.inr (.inl ⟨ho, hp, hb, rfl⟩))
    · rename_i hb; exact .inr (.inl ⟨ho, hp, hb, h⟩)
  · rename_i hp ho; exact .inr (.inr (.inr ⟨ho, .inl hp, h⟩))
  · rename_i hp ho; exact .inr (.inr (.inr ⟨ho, .inr hp, h⟩))
  · cases h
  · cases h

/-! ### One step of the block -/

/-- `s` with its first turn taken. -/
def popTurn (s : State) : State := { s with turns := s.turns.tail }

@[simp] theorem popTurn_params (s : State) : (popTurn s).params = s.params := rfl
@[simp] theorem popTurn_fb (s : State) : (popTurn s).fb = s.fb := rfl
@[simp] theorem popTurn_stage (s : State) : (popTurn s).stage = s.stage := rfl
@[simp] theorem popTurn_sel (s : State) : (popTurn s).sel = s.sel := rfl
@[simp] theorem popTurn_row (s : State) : (popTurn s).row = s.row := rfl
@[simp] theorem popTurn_phase (s : State) : (popTurn s).phase = s.phase := rfl
@[simp] theorem popTurn_inflight (s : State) : (popTurn s).inflight = s.inflight := rfl
@[simp] theorem popTurn_pending (s : State) : (popTurn s).pending = s.pending := rfl
@[simp] theorem popTurn_panelOut (s : State) : (popTurn s).panelOut = s.panelOut := rfl
@[simp] theorem popTurn_rspOut (s : State) : (popTurn s).rspOut = s.rspOut := rfl
@[simp] theorem popTurn_cmdIn (s : State) : (popTurn s).cmdIn = s.cmdIn := rfl
@[simp] theorem popTurn_run (s : State) : (popTurn s).run = s.run := rfl
@[simp] theorem popTurn_turns (s : State) : (popTurn s).turns = s.turns.tail := rfl

@[simp] theorem takeTurn_snd (s : State) : (takeTurn s).2 = popTurn s := takeTurn_state s

/-- One step with no reset: the turn is taken, then the block in IDLE looks at the command port and the block
in a REFRESH takes a scheduler step. -/
theorem step_run {s : State} (hl : s.params.Legal) (hr : ∀ n, s.turns.head? ≠ some (.reset n)) :
    step s = if s.phase = .idle then idleStep (popTurn s)
      else refreshStep (s.turns.head?.getD .producerFirst) (popTurn s) := by
  unfold step
  rw [if_pos hl, takeTurn_snd, takeTurn_turn]
  have hturn : ∀ n, s.turns.head?.getD .producerFirst ≠ .reset n := by
    intro n
    cases hh : s.turns.head? with
    | none => simp
    | some u => intro hu; exact hr n (by rw [hh, ← hu]; rfl)
  unfold turnStep
  split
  · rename_i n hn; exact absurd hn (hturn n)
  · rfl

/-- One step with a reset. -/
theorem step_reset {s : State} {n : Nat} (hl : s.params.Legal) (hn : s.turns.head? = some (.reset n)) :
    step s = .next (resetEvent n (popTurn s)) := by
  unfold step
  rw [if_pos hl, takeTurn_snd, takeTurn_turn, hn]
  rfl

/-- What one step of the block can do. -/
theorem step_next {s t : State} (h : step s = .next t) :
    s.params.Legal ∧
    ((∃ n, s.turns.head? = some (.reset n) ∧ t = resetEvent n (popTurn s)) ∨
     (s.phase = .idle ∧ s.cmdIn = [] ∧ (∀ n, s.turns.head? ≠ some (.reset n)) ∧ t = popTurn s) ∨
     (∃ w ws, s.phase = .idle ∧ s.cmdIn = w :: ws ∧ (∀ n, s.turns.head? ≠ some (.reset n)) ∧
        runWord w { s with cmdIn := ws, turns := s.turns.tail } = .next t) ∨
     (s.phase ≠ .idle ∧ (∀ n, s.turns.head? ≠ some (.reset n)) ∧
        refreshStep (s.turns.head?.getD .producerFirst) (popTurn s) = .next t)) := by
  have hl : s.params.Legal := by
    unfold step at h
    split at h
    · assumption
    · cases h
  refine ⟨hl, ?_⟩
  by_cases hr : ∃ n, s.turns.head? = some (.reset n)
  · obtain ⟨n, hn⟩ := hr
    rw [step_reset hl hn] at h
    cases h
    exact .inl ⟨n, hn, rfl⟩
  · have hr' : ∀ n, s.turns.head? ≠ some (.reset n) := fun n hn => hr ⟨n, hn⟩
    rw [step_run hl hr'] at h
    by_cases hi : s.phase = .idle
    · rw [if_pos hi] at h
      unfold idleStep takeCommand at h
      cases hc : s.cmdIn with
      | nil =>
        simp only [popTurn, hc] at h
        cases h
        refine .inr (.inl ⟨hi, rfl, hr', ?_⟩)
        simp [popTurn, hc]
      | cons w ws =>
        simp only [popTurn, hc] at h
        exact .inr (.inr (.inl ⟨w, ws, hi, rfl, hr', h⟩))
    · rw [if_neg hi] at h
      exact .inr (.inr (.inr ⟨hi, hr', h⟩))

/-! ### Runs -/

/-- A run of one step and more, where the step answers a next state. -/
theorem run_next (M : Host.Core) {n : Nat} {s t : M.State} (h : M.step s = .next t) :
    M.run (n + 1) s = M.run n t := by
  rw [Host.Core.run, h]

/-- A run of one step and more that answers a next state has a first step that does. -/
theorem run_inv (M : Host.Core) {n : Nat} {s t : M.State} (h : M.run (n + 1) s = .next t) :
    ∃ u, M.step s = .next u ∧ M.run n u = .next t := by
  rw [Host.Core.run] at h
  split at h
  · exact ⟨_, ‹_›, h⟩
  · cases h
  · cases h

theorem core_run_next {n : Nat} {s t : State} (h : step s = .next t) :
    Host.Core.run core (n + 1) s = Host.Core.run core n t := run_next core h

theorem core_run_inv {n : Nat} {s t : State} (h : Host.Core.run core (n + 1) s = .next t) :
    ∃ u, step s = .next u ∧ Host.Core.run core n u = .next t := run_inv core h

end Sys2Proof.Machine
end

