-- ==== Sys2Proof/Tests/Slice0.lean ====
section
/-! SUPPORT. Tests. Expected values are the words of 30_encoding.md R61 and R73 and the vectors of
95_test_vectors.md, never the model's own answers. The second half names, for every statement with
hypotheses, a state and operands that meet them together. -/

namespace Sys2Proof.Machine.Tests

/-! ### Parameter sets and states -/

/-- Set T of 95_test_vectors.md section 2. -/
def setT : Params :=
  { Params.atReset with width := 2, height := 4, bandHeight := 2, colEnd := 2#16 }

/-- One column and `bands` bands of one row. -/
def narrow (bands : Nat) (overlap : Bool) : Params :=
  { Params.atReset with width := 1, height := bands, bandHeight := 1, overlap := overlap }

/-- FB bytes from address 0 on. -/
def bytes (l : List Byte) : Memory 8 := (List.range l.length).zip l

/-- Set T with every pixel 0x102030, the start of 95_test_vectors.md section 3.4, second row. -/
def stateT : State :=
  { State.resetWith setT with
    fb := bytes ((List.replicate 8 [0x10#8, 0x20#8, 0x30#8]).flatten) }

/-- `bands` red pixels in one column (FF 00 00 each). -/
def red1 (bands : Nat) (overlap : Bool) : State :=
  { State.resetWith (narrow bands overlap) with
    fb := bytes ((List.replicate bands [0xFF#8, 0x00#8, 0x00#8]).flatten) }

/-- A step's next state meets a test. -/
def nextIs (o : Host.Outcome State Fault Refusal) (f : State → Bool) : Bool :=
  match o with
  | .next t => f t
  | _ => false

/-! ### WellFormed: one ill-formed term for each check -/

theorem test_wf_x : (Instr.writePixel 65536 0 0#24).wellFormed = false := by decide
theorem test_wf_y : (Instr.writePixel 0 65536 0#24).wellFormed = false := by decide
theorem test_wf_addr : (Instr.readFb 4294967296).wellFormed = false := by decide
theorem test_wf_rowStart : (Instr.convertBand 65536).wellFormed = false := by decide

/-- Set T with other dimensions. -/
def dims (width height bandHeight : Nat) : Params :=
  { setT with width := width, height := height, bandHeight := bandHeight }

/-- One illegal parameter set for each condition (00_scope.md R3 to R6), and the largest legal one of one
row. -/
theorem test_illegal_params :
    [dims 0 4 2, dims 65536 4 2, dims 2 0 2, dims 2 65536 2, dims 2 4 0, dims 2 4 8, dims 2 5 2,
      dims 65535 65534 2, dims 65535 1 1].map (fun p => decide p.Legal) =
    [false, false, false, false, false, false, false, false, true] := by decide

/-! ### Decoding: words written out from 30_encoding.md R61 (95_test_vectors.md section 3.1) -/

theorem test_decode_writePixel :
    decode 0x0100010002FFFFFF#64 = .ok (.writePixel 1 2 0xFFFFFF#24) ∧
    decode 0x01FFFFFFFF000000#64 = .ok (.writePixel 65535 65535 0#24) := by decide
theorem test_decode_fill : decode 0x0200000000FF0000#64 = .ok (.fill 0xFF0000#24) := by decide
theorem test_decode_readFb :
    decode 0x0300000000000012#64 = .ok (.readFb 0x12) ∧
    decode 0x03000000FFFFFFFF#64 = .ok (.readFb 0xFFFFFFFF) := by decide
theorem test_decode_convertBand : decode 0x1000000002000000#64 = .ok (.convertBand 2) := by decide
theorem test_decode_refresh : decode 0x2000000000000000#64 = .ok .refresh := by decide
theorem test_decode_mustBeZero :
    decode 0x02FFFF0000000000#64 = .error (.mustBeZero 0x02#8) ∧
    decode 0x0200000001000000#64 = .error (.mustBeZero 0x02#8) ∧
    decode 0x0300000100000000#64 = .error (.mustBeZero 0x03#8) ∧
    decode 0x1000010002000000#64 = .error (.mustBeZero 0x10#8) ∧
    decode 0x1000000002000001#64 = .error (.mustBeZero 0x10#8) ∧
    decode 0x2000000000000001#64 = .error (.mustBeZero 0x20#8) := by decide
theorem test_decode_unknownOp :
    decode 0x0000000000000000#64 = .error (.unknownOp 0x00#8) ∧
    decode 0x0400000000000000#64 = .error (.unknownOp 0x04#8) ∧
    decode 0x1100000000000000#64 = .error (.unknownOp 0x11#8) ∧
    decode 0xFFFFFFFFFFFFFFFF#64 = .error (.unknownOp 0xFF#8) := by decide

/-- The examples of 30_encoding.md R73, from text to word. -/
theorem test_assemble_examples :
    assembleLine "WRITE_PIXEL 1, 2, 0xFFFFFF".toList = .ok (some (.writePixel 1 2 0xFFFFFF#24)) ∧
    assembleLine "FILL 0xFF0000  # red".toList = .ok (some (.fill 0xFF0000#24)) ∧
    assembleLine "READ_FB 0x12".toList = .ok (some (.readFb 0x12)) ∧
    assembleLine "CONVERT_BAND 2".toList = .ok (some (.convertBand 2)) ∧
    assembleLine "REFRESH".toList = .ok (some .refresh) := by decide
theorem test_encode_examples :
    encode (.writePixel 1 2 0xFFFFFF#24) = 0x0100010002FFFFFF#64 ∧
    encode (.fill 0xFF0000#24) = 0x0200000000FF0000#64 ∧
    encode (.readFb 0x12) = 0x0300000000000012#64 ∧
    encode (.convertBand 2) = 0x1000000002000000#64 ∧
    encode .refresh = 0x2000000000000000#64 := by decide
theorem test_assemble_too_wide :
    assembleLine "CONVERT_BAND 65536".toList = .error .operandTooWide ∧
    assembleLine "FILL 0x1000000".toList = .error .operandTooWide := by decide

/-! ### The host interface on the reset state -/

theorem test_fetch_word_runs :
    nextIs (step (State.reset.withFetchWord 64 0x0100000000123456)) (fun t => t.rspOut == [0#16]) ∧
    nextIs (step (State.reset.withFetchWord 64 0x0200000000FF0000)) (fun t => t.rspOut == [0#16]) ∧
    nextIs (step (State.reset.withFetchWord 64 0x1000000002000000))
      (fun t => t.rspOut == [0#16]) ∧
    nextIs (step (State.reset.withFetchWord 64 0x2000000000000000))
      (fun t => t.phase == .convert) ∧
    nextIs (step (State.reset.withFetchWord 64 0)) (fun t => t.rspOut == [0x0100#16]) := by decide
theorem test_decodeTableWord :
    decodeTableWord 64 0x0300000000000010 = some (.readFb 16) ∧ decodeTableWord 64 0 = none := by
  decide

/-! ### Commands: one or two vectors each (95_test_vectors.md sections 3.2 and 3.4) -/

theorem test_writePixel_last_pixel :
    nextIs (exec (.writePixel 1 3 0xABCDEF#24) stateT) (fun t =>
      t.fb.drop 21 == [(21, 0xAB#8), (22, 0xCD#8), (23, 0xEF#8)] && t.rspOut == [0x0000#16]) := by
  decide
theorem test_writePixel_x_is_width :
    nextIs (exec (.writePixel 2 0 0xFFFFFF#24) stateT)
      (fun t => t.fb == stateT.fb && t.rspOut == [0x0200#16]) := by decide
theorem test_fill_red :
    nextIs (exec (.fill 0xFF0000#24) (State.resetWith setT)) (fun t =>
      t.fb == bytes ((List.replicate 8 [0xFF#8, 0x00#8, 0x00#8]).flatten)) := by decide
theorem test_readFb :
    nextIs (exec (.readFb 23) stateT) (fun t => t.rspOut == [0x0030#16]) ∧
    nextIs (exec (.readFb 24) stateT) (fun t => t.rspOut == [0x0400#16]) := by decide
theorem test_convertBand_unaligned :
    nextIs (exec (.convertBand 1) stateT) (fun t =>
      t.stage.slot0.map (·.2) == [0x0611#16, 0x0611#16, 0x0611#16, 0x0611#16] &&
      t.stage.slot1 == []) := by decide
theorem test_convertBand_past_the_edge :
    nextIs (exec (.convertBand 3) stateT)
      (fun t => t.stage == stateT.stage && t.rspOut == [0x0300#16]) := by decide
theorem test_native_green_blue :
    native 0x00#8 0xFF#8 0x00#8 = 0xE007#16 ∧ native 0x00#8 0x00#8 0xFF#8 = 0x1F00#16 ∧
    native 0x07#8 0x03#8 0x07#8 = 0x0000#16 := by decide

/-- The frame of 95_test_vectors.md section 3.5, first vector. -/
theorem test_frame :
    frame { stateT with stage := ⟨[(0, 0x00F8#16), (1, 0x00F8#16), (2, 0x00F8#16), (3, 0x00F8#16)], []⟩ }
      2#16 false =
    [cmdSymbol 0x2A#8, dataSymbol 0x00#8, dataSymbol 0x00#8, dataSymbol 0x00#8, dataSymbol 0x02#8,
     cmdSymbol 0x2B#8, dataSymbol 0x00#8, dataSymbol 0x02#8, dataSymbol 0x00#8, dataSymbol 0x04#8,
     cmdSymbol 0x2C#8, dataSymbol 0xF8#8, dataSymbol 0x00#8, dataSymbol 0xF8#8, dataSymbol 0x00#8,
     dataSymbol 0xF8#8, dataSymbol 0x00#8, dataSymbol 0xF8#8, dataSymbol 0x00#8] := by decide

/-- Address values above 255 go out high byte first (section 3.5, second vector). -/
theorem test_frame_header_wide :
    frameHeader { setT with width := 300, height := 512, bandHeight := 256, colEnd := 300#16 } 256#16 =
    [cmdSymbol 0x2A#8, dataSymbol 0x00#8, dataSymbol 0x00#8, dataSymbol 0x01#8, dataSymbol 0x2C#8,
     cmdSymbol 0x2B#8, dataSymbol 0x01#8, dataSymbol 0x00#8, dataSymbol 0x02#8, dataSymbol 0x00#8,
     cmdSymbol 0x2C#8] := by decide

theorem test_reset_memory_wf :
    Memory.wf State.reset.params.fbBytes State.reset.fb = true ∧
    Memory.wf State.reset.params.bandPixels (State.reset.stage.get true) = true := by decide

/-! ### Witnesses: states that meet the hypotheses of the statements -/

/-- In CONVERT, before the first band. -/
def atConvert (bands : Nat) (overlap : Bool) : State :=
  { red1 bands overlap with phase := .convert }

/-- OVERLAP = 0, WRITE: the band at `row` has been converted. -/
def atWrite (bands : Nat) (row : Half) (sel : Bool) : State :=
  { red1 bands false with
    phase := .write, row := row, sel := sel
    stage := ⟨[(0, 0x00F8#16)], [(0, 0x00F8#16)]⟩ }

/-- OVERLAP = 1, three bands, two converted and both band-writes pending: the producer holds. -/
def atHold : State :=
  { red1 3 true with
    phase := .convert, row := 2#16
    stage := ⟨[(0, 0x00F8#16)], [(0, 0x00F8#16)]⟩
    inflight := ⟨true, true⟩, pending := [⟨0#16, false⟩, ⟨1#16, true⟩] }

/-- OVERLAP = 1, one band, in DRAIN with its band-write pending. -/
def atDrain : State :=
  { red1 1 true with
    phase := .drain, row := 1#16, sel := true
    stage := ⟨[(0, 0x00F8#16)], []⟩
    inflight := ⟨true, false⟩, pending := [⟨0#16, false⟩] }

/-- OVERLAP = 1, one band, in DRAIN with nothing pending. -/
def atDrained : State := { atDrain with inflight := ⟨false, false⟩, pending := [] }

theorem wit_EncodedCommandsDecodeBack :
    (Instr.writePixel 65535 65535 0xFFFFFF#24).wellFormed = true ∧
    (Instr.fill 0xFFFFFF#24).wellFormed = true ∧ (Instr.readFb 4294967295).wellFormed = true ∧
    (Instr.convertBand 65535).wellFormed = true ∧ Instr.refresh.wellFormed = true := by decide
/-- DecodedWordsAreEncodings and OperandsAreUnsignedFields are met by the decode tests above. -/
theorem wit_DecodeFollowsTheMaskTable :
    (0x01FFFFFFFF000000#64 &&& (Instr.writePixel 0 0 0#24).mask = (Instr.writePixel 0 0 0#24).pattern) ∧
    (0x0200000000FFFFFF#64 &&& (Instr.fill 0#24).mask = (Instr.fill 0#24).pattern) ∧
    (0x03000000FFFFFFFF#64 &&& (Instr.readFb 0).mask = (Instr.readFb 0).pattern) ∧
    (0x1000000002000000#64 &&& (Instr.convertBand 0).mask = (Instr.convertBand 0).pattern) ∧
    (0x2000000000000000#64 &&& Instr.refresh.mask = Instr.refresh.pattern) := by decide
theorem wit_NonZeroReservedFieldIsIllegal :
    ((0x0200000001000000#64 : CmdWord).extractLsb' 56 8 = 0x02#8 ∧
      (0x0200000001000000#64 : CmdWord).extractLsb' 24 32 ≠ 0#32) ∧
    ((0x0300000100000000#64 : CmdWord).extractLsb' 56 8 = 0x03#8 ∧
      (0x0300000100000000#64 : CmdWord).extractLsb' 32 24 ≠ 0#24) ∧
    ((0x1000010002000000#64 : CmdWord).extractLsb' 56 8 = 0x10#8 ∧
      (0x1000010002000000#64 : CmdWord).extractLsb' 40 16 ≠ 0#16) ∧
    ((0x1000000002000001#64 : CmdWord).extractLsb' 56 8 = 0x10#8 ∧
      (0x1000000002000001#64 : CmdWord).extractLsb' 0 24 ≠ 0#24) ∧
    ((0x2000000000000001#64 : CmdWord).extractLsb' 56 8 = 0x20#8 ∧
      (0x2000000000000001#64 : CmdWord).extractLsb' 0 56 ≠ 0#56) := by decide
theorem wit_OtherOpcodesAreIllegal :
    (0x0000000000000000#64 : CmdWord).extractLsb' 56 8 ∉ [0x01#8, 0x02#8, 0x03#8, 0x10#8, 0x20#8] ∧
    (0x0400000000000000#64 : CmdWord).extractLsb' 56 8 ∉ [0x01#8, 0x02#8, 0x03#8, 0x10#8, 0x20#8] := by
  decide

theorem noReset_nil {s : State} (h : s.turns = []) : ∀ n, s.turns.head? ≠ some (.reset n) := by
  intro n; rw [h]; simp

theorem wit_StepRunsTheDecodedCommand :
    let s : State := { stateT with cmdIn := [0x0300000000000010#64] }
    s.params.Legal ∧ s.phase = .idle ∧ s.cmdIn = 0x0300000000000010#64 :: [] ∧
    decode 0x0300000000000010#64 = .ok (.readFb 16) ∧ ∀ n, s.turns.head? ≠ some (.reset n) :=
  ⟨by decide, rfl, rfl, by decide, noReset_nil rfl⟩
theorem wit_FetchWordRunsNext :
    State.reset.params.Legal ∧ decodeTableWord 64 0x2000000000000000 = some .refresh := by decide
theorem wit_IllegalWordIsAnswered : decode 0#64 = .error (.unknownOp 0x00#8) := by decide
theorem wit_StepAnswersAnIllegalWord :
    let s : State := { stateT with cmdIn := [0#64] }
    s.params.Legal ∧ s.phase = .idle ∧ s.cmdIn = 0#64 :: [] ∧
    decode 0#64 = .error (.unknownOp 0x00#8) ∧ ∀ n, s.turns.head? ≠ some (.reset n) :=
  ⟨by decide, rfl, rfl, by decide, noReset_nil rfl⟩
theorem wit_IdleBlockKeepsItsState :
    stateT.params.Legal ∧ stateT.phase = .idle ∧ stateT.cmdIn = [] ∧
    ∀ n, stateT.turns.head? ≠ some (.reset n) := ⟨by decide, rfl, rfl, noReset_nil rfl⟩
/-- Five rows in bands of two (00_scope.md R5). -/
theorem wit_IllegalParametersAreRefused :
    let s := State.resetWith (dims 2 5 2)
    ¬ (1 ≤ s.params.width ∧ s.params.width ≤ 65535 ∧ 1 ≤ s.params.height ∧
      s.params.height ≤ 65535 ∧ 1 ≤ s.params.bandHeight ∧ s.params.bandHeight ≤ s.params.height ∧
      s.params.height % s.params.bandHeight = 0 ∧
      s.params.width * s.params.height * 3 ≤ 2 ^ 32) := by decide
/-- Also for StreamsGrowAndParametersStay, ResponsesCarryOneOfFiveCodes and OnlyFramesAreEmitted. -/
theorem wit_FramebufferFixedWhileRefreshing :
    (atWrite 2 0#16 false).phase ≠ .idle ∧ (∀ n, (atWrite 2 0#16 false).turns.head? ≠ some (.reset n)) ∧
    ∃ t, step (atWrite 2 0#16 false) = .next t := ⟨by decide, noReset_nil rfl, _, rfl⟩
/-- The reset clause of OnlyFramesAreEmitted. -/
theorem wit_OnlyFramesAreEmitted_reset :
    let s : State := { atWrite 2 0#16 false with turns := [.reset 5] }
    s.turns.head? = some (.reset 5) ∧ ∃ t, step s = .next t ∧ t.panelOut.length = 5 :=
  ⟨rfl, _, rfl, by decide⟩

/-- Also for PixelsReadBackAsDrawn. -/
theorem wit_WritePixelStoresThreeBytes : 1 < stateT.params.width ∧ 3 < stateT.params.height := by
  decide
theorem wit_WritePixelOutOfRangeFails :
    (stateT.params.width ≤ 2 ∨ stateT.params.height ≤ 0) ∧
    (stateT.params.width ≤ 0 ∨ stateT.params.height ≤ 4) := by decide
theorem wit_ReadFb :
    23 < stateT.params.width * stateT.params.height * 3 ∧
    stateT.params.width * stateT.params.height * 3 ≤ 24 := by decide
theorem wit_StoreCommandsLeaveTheScheduler : ∃ t, exec .refresh stateT = .next t := ⟨_, rfl⟩
/-- Also for ConvertBandWritesTheWholeSlot. -/
theorem wit_ConvertBandFillsTheSelectedSlot :
    2 + stateT.params.bandHeight ≤ stateT.params.height ∧ stateT.inflight.get stateT.sel = false := by
  decide
theorem wit_ConvertBandPastTheEdgeFails :
    stateT.params.height < 3 + stateT.params.bandHeight ∧
    (atWrite 2 1#16 true).phase ≠ .idle ∧ ∃ t, step (atWrite 2 1#16 true) = .next t ∧
      t.rspOut = (atWrite 2 1#16 true).rspOut ++ [0x0000#16] := ⟨by decide, by decide, _, rfl, rfl⟩
theorem wit_ConvertBandIsPure : ∃ t t', convertBand 2 true stateT = .next t ∧
    convertBand 2 false stateT = .next t' ∧ 3 < stateT.params.bandPixels :=
  ⟨_, _, rfl, rfl, by decide⟩
theorem wit_SlotInFlightIsNeverRewritten :
    (∀ n, atHold.turns.head? ≠ some (.reset n)) ∧ (∃ t, step atHold = .next t) ∧
    atHold.inflight.get true = true := ⟨noReset_nil rfl, ⟨_, rfl⟩, rfl⟩
theorem wit_BandWriteEmitsTheFrame :
    stateT.params.Legal ∧ (2#16 : Half).toNat + stateT.params.bandHeight ≤ stateT.params.height := by
  decide
theorem wit_PixelsGoOutBigEndian :
    HoldsBand (atWrite 2 1#16 true) true 1 ∧ 0 < (atWrite 2 1#16 true).params.bandPixels := by
  constructor
  · unfold HoldsBand; decide
  · decide

/-- The state in WRITE meets the invariant. -/
theorem atWrite_inv : Inv (atWrite 2 1#16 true) where
  legal := by decide
  fbWf := by decide
  stageWf := by decide
  rowAligned := by decide
  rowInFrame := by decide
  idleQuiet := by decide
  sequentialQuiet := by decide
  overlapPhase := by decide
  loopRow := by decide
  drainRow := by decide
  selParity := by decide
  pendingBands := trivial
  inflightPending := by decide
  writeHolds := by intro _; unfold HoldsBand; decide
  pendingHolds := by intro e he; cases he

/-- The state in which the producer holds meets the invariant. -/
theorem atHold_inv : Inv atHold where
  legal := by decide
  fbWf := by decide
  stageWf := by decide
  rowAligned := by decide
  rowInFrame := by decide
  idleQuiet := by decide
  sequentialQuiet := by decide
  overlapPhase := by decide
  loopRow := by decide
  drainRow := by decide
  selParity := by decide
  pendingBands := by unfold PendingBands atHold; decide
  inflightPending := by decide
  writeHolds := by intro h; cases h
  pendingHolds := by unfold HoldsBand; decide

theorem wit_NoUnwrittenWordIsEmitted :
    Inv (atWrite 2 1#16 true) ∧ Inv atHold ∧
    (∃ t, step (atWrite 2 1#16 true) = .next t ∧ t.panelOut ≠ (atWrite 2 1#16 true).panelOut) ∧
    (∃ t, step atHold = .next t ∧ t.panelOut ≠ atHold.panelOut) :=
  ⟨atWrite_inv, atHold_inv, ⟨_, rfl, by decide⟩, ⟨_, rfl, by decide⟩⟩

/-- The list of turns is no part of the invariant. -/
theorem inv_turns {s : State} (h : Inv s) (l : List Turn) : Inv { s with turns := l } :=
  ⟨h.legal, h.fbWf, h.stageWf, h.rowAligned, h.rowInFrame, h.idleQuiet, h.sequentialQuiet,
    h.overlapPhase, h.loopRow, h.drainRow, h.selParity, h.pendingBands, h.inflightPending,
    h.writeHolds, h.pendingHolds⟩

/-- The reset clause, in either variant. -/
theorem wit_NoUnwrittenWordIsEmitted_reset :
    Inv { atWrite 2 1#16 true with turns := [.reset 12] } ∧ Inv { atHold with turns := [.reset 12] } ∧
    (∃ t, step { atWrite 2 1#16 true with turns := [.reset 12] } = .next t ∧
      t.panelOut.length = 12) ∧
    ∃ t, step { atHold with turns := [.reset 12] } = .next t ∧ t.panelOut.length = 12 :=
  ⟨inv_turns atWrite_inv _, inv_turns atHold_inv _, ⟨_, rfl, by decide⟩, _, rfl, by decide⟩

theorem wit_ConvertStepFillsTheSlot :
    let s := atConvert 2 false
    s.params.Legal ∧ s.params.overlap = false ∧ s.phase = .convert ∧ s.inflight.get s.sel = false ∧
    s.row.toNat + s.params.bandHeight ≤ s.params.height ∧ ∀ n, s.turns.head? ≠ some (.reset n) :=
  ⟨by decide, rfl, rfl, rfl, by decide, noReset_nil rfl⟩
/-- The two clauses: a band with another below it, and the last band. -/
theorem wit_WriteStepEmitsAndAdvances :
    (let s := atWrite 2 0#16 false
     s.params.Legal ∧ s.params.overlap = false ∧ s.phase = .write ∧ s.turns = [] ∧
     s.row.toNat + s.params.bandHeight < s.params.height) ∧
    (let s := atWrite 2 1#16 true
     s.params.Legal ∧ s.params.overlap = false ∧ s.phase = .write ∧ s.turns = [] ∧
     s.row.toNat + s.params.bandHeight = s.params.height) := by decide
theorem wit_ProducerConvertsAndIssues :
    (let s := atConvert 2 true
     s.params.Legal ∧ s.params.overlap = true ∧ s.phase = .convert ∧ s.inflight.get s.sel = false ∧
     s.row.toNat + s.params.bandHeight ≤ s.params.height ∧ s.turns = [] ∧ s.pending = []) ∧
    (atHold.params.overlap = true ∧ atHold.phase = .convert ∧
      atHold.inflight.get atHold.sel = true ∧ atHold.turns = []) ∧
    (∃ t, step atHold = .next t) ∧
    ∃ t, step { atHold with turns := [.backendBusy] } = .next t :=
  ⟨by decide, by decide, ⟨_, rfl⟩, _, rfl⟩
/-- The three ways of the premise: the turn names the consumer, the producer holds, DRAIN. -/
theorem wit_ConsumerEmitsTheOldest :
    (let s : State := { atConvert 2 true with
       row := 1#16, sel := true, inflight := ⟨true, false⟩, pending := [⟨0#16, false⟩]
       turns := [.consumerFirst] }
     s.params.Legal ∧ s.params.overlap = true ∧ s.pending = ⟨0#16, false⟩ :: [] ∧
     s.phase = .convert ∧ s.turns.head? = some .consumerFirst) ∧
    (atHold.params.Legal ∧ atHold.pending = ⟨0#16, false⟩ :: [⟨1#16, true⟩] ∧
      atHold.inflight.get atHold.sel = true ∧ atHold.turns = []) ∧
    (atDrain.params.Legal ∧ atDrain.pending = ⟨0#16, false⟩ :: [] ∧ atDrain.phase = .drain ∧
      atDrain.turns = [] ∧ (0#16 : Half).toNat + atDrain.params.bandHeight ≤ atDrain.params.height) := by
  decide
theorem wit_DrainCompletesWhenEmpty :
    (atDrained.params.Legal ∧ atDrained.params.overlap = true ∧ atDrained.phase = .drain ∧
      atDrained.turns = [] ∧ atDrained.pending = []) ∧
    (atDrain.params.Legal ∧ atDrain.params.overlap = true ∧ atDrain.phase = .drain ∧
      atDrain.turns = [] ∧ atDrain.pending ≠ []) ∧ ∃ t, step atDrain = .next t :=
  ⟨by decide, by decide, _, rfl⟩
theorem wit_BusyBackendHoldsTheBlock :
    (let s : State := { atWrite 2 0#16 false with turns := [.backendBusy] }
     s.params.Legal ∧ s.turns.head? = some .backendBusy ∧ s.params.overlap = false ∧
     s.phase = .write) ∧
    (let s : State := { atDrain with turns := [.backendBusy] }
     s.params.Legal ∧ s.turns.head? = some .backendBusy ∧ s.params.overlap = true ∧
     s.phase = .drain ∧ s.pending ≠ []) ∧
    (let s : State := { atHold with turns := [.backendBusy] }
     s.params.Legal ∧ s.turns.head? = some .backendBusy ∧ s.params.overlap = true ∧
     s.phase = .convert ∧ s.inflight.get s.sel = true ∧ s.pending ≠ []) := by decide
theorem wit_RefreshCoversEveryPixelOnce :
    stateT.params.Legal ∧ 3 < stateT.params.height ∧ 1 < stateT.params.bands ∧
    1 * stateT.params.bandHeight ≤ 3 ∧ 3 < (1 + 1) * stateT.params.bandHeight := by decide

/-- Any legal reset state meets the invariant: the three fields that are no plain comparison by hand. -/
theorem red1_inv (bands : Nat) (overlap : Bool) (hl : (narrow bands overlap).Legal)
    (hf : Memory.wf (narrow bands overlap).fbBytes (red1 bands overlap).fb = true) :
    Inv (red1 bands overlap) where
  legal := hl
  fbWf := hf
  stageWf := by intro b; cases b <;> rfl
  rowAligned := Nat.dvd_zero _
  rowInFrame := Nat.zero_le _
  idleQuiet _ := ⟨rfl, by intro b; cases b <;> rfl⟩
  sequentialQuiet _ := ⟨rfl, by intro b; cases b <;> rfl, by intro h; cases h⟩
  overlapPhase _ := by intro h; cases h
  loopRow h := by rcases h with h | h <;> cases h
  drainRow h := by cases h
  selParity h := absurd rfl h
  pendingBands := trivial
  inflightPending := by intro b; cases b <;> rfl
  writeHolds h := by cases h
  pendingHolds := by intro e he; cases he

/-- RefreshAsAWhole with two bands and with one, in either variant; also for RefreshEnds. -/
theorem wit_RefreshAsAWhole :
    (Inv (red1 2 false) ∧ (red1 2 false).phase = .idle ∧ NoReset (red1 2 false) ∧
      (red1 2 false).params.bands = 2 ∧
      ∃ a t, exec .refresh (red1 2 false) = .next a ∧ runToIdle 5 a = .next t ∧ t.phase = .idle) ∧
    (Inv (red1 1 true) ∧ (red1 1 true).phase = .idle ∧ NoReset (red1 1 true) ∧
      (red1 1 true).params.bands = 1 ∧
      ∃ a t, exec .refresh (red1 1 true) = .next a ∧ runToIdle 3 a = .next t ∧ t.phase = .idle) :=
  ⟨⟨red1_inv 2 false (by decide) (by decide), rfl, (by intro n h; cases h), by decide,
      _, _, rfl, rfl, rfl⟩,
    red1_inv 1 true (by decide) (by decide), rfl, (by intro n h; cases h), by decide,
      _, _, rfl, rfl, rfl⟩

/-- OverlapChangesNothingObservable, with the consumer going first whenever it can. -/
theorem wit_OverlapChangesNothingObservable :
    Inv (red1 2 false) ∧ (red1 2 false).phase = .idle ∧ NoReset (red1 2 false) ∧
    (∀ n, Turn.reset n ∉ [Turn.producerFirst, .consumerFirst]) ∧
    (∃ a t, exec .refresh (red1 2 false) = .next a ∧ runToIdle 4 a = .next t ∧ t.phase = .idle) ∧
    ∃ a t, exec .refresh { red1 2 true with turns := [.producerFirst, .consumerFirst] } = .next a ∧
      runToIdle 5 a = .next t ∧ t.phase = .idle :=
  ⟨red1_inv 2 false (by decide) (by decide), rfl, (by intro n h; cases h), by intro n; simp,
    ⟨_, _, rfl, rfl, rfl⟩, _, _, rfl, rfl, rfl⟩

/-- Also for ErrorsAreNotSticky and OneResponsePerCommand. -/
theorem wit_FailedCommandsChangeNothing :
    stateT.phase = .idle ∧
    (∃ t, runWord 0x0300000000000018#64 stateT = .next t ∧
      t.rspOut = stateT.rspOut ++ [0x0400#16] ∧ (0x0400#16 : Half).extractLsb' 8 8 ≠ 0x00#8) ∧
    (∃ t, runWord 0#64 stateT = .next t ∧ t.rspOut = stateT.rspOut ++ [0x0100#16]) ∧
    (∃ u, runWord 0x2000000000000000#64 stateT = .next u) ∧
    ∃ t, exec .refresh stateT = .next t :=
  ⟨rfl, ⟨_, rfl, by decide, by decide⟩, ⟨_, rfl, by decide⟩, ⟨_, rfl⟩, _, rfl⟩
theorem wit_ResetAbandonsTheCommand :
    (let s : State := { atWrite 2 0#16 false with turns := [.reset 5] }
     s.params.Legal ∧ s.turns = .reset 5 :: [] ∧ s.params.overlap = false ∧ s.phase = .write) ∧
    (let s : State := { atConvert 2 false with turns := [.reset 0] }
     s.params.Legal ∧ s.turns = .reset 0 :: [] ∧ s.params.overlap = false ∧ s.phase ≠ .write) ∧
    (let s : State := { atHold with turns := [.reset 5] }
     s.params.Legal ∧ s.turns = .reset 5 :: [] ∧ s.params.overlap = true ∧
     s.pending = ⟨0#16, false⟩ :: [⟨1#16, true⟩]) ∧
    (let s : State := { atConvert 2 true with turns := [.reset 5] }
     s.params.Legal ∧ s.turns = .reset 5 :: [] ∧ s.params.overlap = true ∧ s.pending = []) := by
  decide
theorem wit_ResetMeetsTheInvariant : setT.Legal := by decide
/-- Also for TheBlockNeverStops and EveryStepAccountsForItsWords. -/
theorem wit_EveryStepKeepsTheInvariant :
    Inv (atWrite 2 1#16 true) ∧ Inv atHold ∧ (∃ t, step (atWrite 2 1#16 true) = .next t) ∧
    ∃ t, step atHold = .next t := ⟨atWrite_inv, atHold_inv, ⟨_, rfl⟩, _, rfl⟩
theorem wit_ReachableStatesAreInOrder :
    (narrow 2 true).Legal ∧ ∃ t, Host.Core.run core 2
      { State.resetWith (narrow 2 true) with
        cmdIn := [0x2000000000000000#64], turns := [.consumerFirst] } = .next t ∧
      t.phase = .convert ∧ t.params.overlap = true := ⟨by decide, _, rfl, rfl, rfl⟩
/-- The end of a run of one FILL. -/
theorem wit_EveryWordGetsOneResponse :
    (narrow 2 true).Legal ∧ (∀ k, Turn.reset k ∉ [Turn.consumerFirst]) ∧
    ∃ t, Host.Core.run core 1
      { State.resetWith (narrow 2 true) with
        cmdIn := [0x0200000000FF0000#64], turns := [.consumerFirst] } = .next t ∧
      t.cmdIn = [] ∧ t.phase = .idle := ⟨by decide, by intro k; simp, _, rfl, rfl, rfl⟩

end Sys2Proof.Machine.Tests
end

section
/-! PROOF. Where an illegal parameter set is refused (00_scope.md R3 to R6, R11; assumption log 10). -/

namespace Sys2Proof.Machine

/-- With an illegal parameter set a step is the refusal, whatever the rest of the state holds; `step_run` and
`step_reset` say what it is with a legal one. -/
theorem step_of_not_legal {s : State} (hl : ¬ s.params.Legal) : step s = .refused .illegalParameters := by
  unfold step
  rw [if_neg hl]

/-- Settles O14: the conditions written out are `Params.Legal` with `fbBytes` unfolded. -/
theorem illegalParametersAreRefused : Obligations.IllegalParametersAreRefused := by
  unfold Obligations.IllegalParametersAreRefused
  intro s hbroken
  have hl : ¬ s.params.Legal := hbroken
  exact step_of_not_legal hl

end Sys2Proof.Machine
end

section
/-! PROOF. The moves of the block: what a command word and a step of a REFRESH can do, as one list of cases
each, in terms of the state before and the shared operations. Facts about every step are proved move by
move. -/

namespace Sys2Proof.Machine

/-! ### What a conversion leaves unchanged -/

section
variable (r : Nat) (slot : Bool) (s : State)

@[simp] theorem convertRows_params : (convertRows r slot s).params = s.params := by rw [convertRows_eq]
@[simp] theorem convertRows_fb : (convertRows r slot s).fb = s.fb := by rw [convertRows_eq]
@[simp] theorem convertRows_sel : (convertRows r slot s).sel = s.sel := by rw [convertRows_eq]
@[simp] theorem convertRows_row : (convertRows r slot s).row = s.row := by rw [convertRows_eq]
@[simp] theorem convertRows_phase : (convertRows r slot s).phase = s.phase := by rw [convertRows_eq]
@[simp] theorem convertRows_inflight : (convertRows r slot s).inflight = s.inflight := by rw [convertRows_eq]
@[simp] theorem convertRows_pending : (convertRows r slot s).pending = s.pending := by rw [convertRows_eq]
@[simp] theorem convertRows_panelOut : (convertRows r slot s).panelOut = s.panelOut := by rw [convertRows_eq]
@[simp] theorem convertRows_rspOut : (convertRows r slot s).rspOut = s.rspOut := by rw [convertRows_eq]
@[simp] theorem convertRows_run : (convertRows r slot s).run = s.run := by rw [convertRows_eq]

variable {r slot s}

/-- A conversion leaves the slot it does not write as it was. -/
theorem convertRows_stage_other {other : Bool} (h : other ≠ slot) :
    (convertRows r slot s).stage.get other = s.stage.get other := by
  rw [convertRows_eq]
  simp [TwoSlots.get_set, h]

/-- A conversion keeps the canonical form of both slots. -/
theorem convertRows_stageWf (h : ∀ x, Memory.wf s.params.bandPixels (s.stage.get x) = true) (x : Bool) :
    Memory.wf s.params.bandPixels ((convertRows r slot s).stage.get x) = true := by
  by_cases hx : x = slot
  · subst hx; exact convertRows_wf (h x)
  · rw [convertRows_stage_other hx]; exact h x

end

/-! ### The moves -/

/-- The three bytes of a pixel of the frame lie below FB_BYTES (20_memory.md R41, R42). -/
theorem pixOff_lt_fbBytes {p : Params} {x y : Nat} (h : PixelInRange p x y) :
    p.pixOff x y + 2 < p.fbBytes := by
  obtain ⟨hx, hy⟩ := h
  have hrows : (y + 1) * p.width ≤ p.height * p.width := Nat.mul_le_mul_right _ hy
  rw [Nat.succ_mul, Nat.mul_comm p.height] at hrows
  unfold Params.pixOff Params.fbBytes
  omega

/-- What a command word taken in state `s` can do. -/
inductive CommandMove (s : State) : State → Prop
  /-- An error response, and nothing else (60_exceptions.md R160). -/
  | raised (e : Status) (herr : e ≠ .ok) : CommandMove s (raise e s)
  /-- READ_FB: the byte as a response, and nothing else. -/
  | read (a : Nat) (hin : AddrInRange s.params a) : CommandMove s (respond .ok (fbRead s a) s)
  /-- WRITE_PIXEL or FILL: FB written in canonical form, and the response. -/
  | drawn (m : Memory 8)
      (hwf : Memory.wf s.params.fbBytes s.fb = true → Memory.wf s.params.fbBytes m = true) :
      CommandMove s (respond .ok 0x00#8 { s with fb := m })
  /-- CONVERT_BAND: a band converted into STAGE[sel], and the response. -/
  | converted (r : Nat) (hband : BandInRange s.params r) (hfree : s.inflight.get s.sel = false) :
      CommandMove s (respond .ok 0x00#8 (convertRows r s.sel s))
  /-- REFRESH: its acceptance (42_transfer_scheduler.md R120). -/
  | accepted : CommandMove s { s with row := 0#16, sel := false, phase := .convert }

theorem exec_commandMove {i : Instr} {s t : State} (h : exec i s = .next t) : CommandMove s t := by
  cases i with
  | writePixel x y c =>
    change execWritePixel x y c s = .next t at h
    by_cases hin : PixelInRange s.params x y
    · rw [execWritePixel_in hin, fbWritePixel_eq] at h
      cases h
      exact .drawn _ fun hwf => fbWritePixel_wf c hwf (pixOff_lt_fbBytes hin)
    · rw [execWritePixel_out hin] at h
      cases h
      exact .raised _ (by decide)
  | fill c =>
    change Host.Outcome.next (respond .ok 0x00#8 (fbFill s c)) = .next t at h
    rw [fbFill_eq] at h
    cases h
    exact .drawn _ (fbFill_wf c)
  | readFb a =>
    change execReadFb a s = .next t at h
    by_cases hin : AddrInRange s.params a
    · rw [execReadFb_in hin] at h
      cases h
      exact .read a hin
    · rw [execReadFb_out hin] at h
      cases h
      exact .raised _ (by decide)
  | convertBand r =>
    obtain ⟨hband, hfree, rfl⟩ | ⟨_, rfl⟩ := execConvertBand_next h
    · exact .converted r hband hfree
    · exact .raised _ (by decide)
  | refresh =>
    cases h
    exact .accepted

theorem runWord_commandMove {w : CmdWord} {s t : State} (h : runWord w s = .next t) : CommandMove s t := by
  unfold runWord at h
  split at h
  · exact exec_commandMove h
  · cases h
    exact .raised _ (by decide)

/-- What one step of a REFRESH in progress in state `s` can do, in either variant. -/
inductive RefreshMove (s : State) : State → Prop
  /-- OVERLAP = 0: the convert step (42_transfer_scheduler.md R121). -/
  | convert (hover : s.params.overlap = false) (hphase : s.phase = .convert)
      (hband : BandInRange s.params s.row.toNat) (hfree : s.inflight.get s.sel = false) :
      RefreshMove s { convertRows s.row.toNat s.sel s with phase := .write }
  /-- OVERLAP = 0: the write step and its loop test (42_transfer_scheduler.md R122, R123). -/
  | write (hover : s.params.overlap = false) (hphase : s.phase = .write)
      (hband : BandInRange s.params s.row.toNat) :
      RefreshMove s (loopTest (afterWrite s))
  /-- Waiting on the backend (70_reset_and_hazards.md R175). -/
  | wait : RefreshMove s s
  /-- OVERLAP = 1: the producer step and its test for DRAIN (42_transfer_scheduler.md R132). -/
  | produce (hover : s.params.overlap = true) (hphase : s.phase = .convert)
      (hband : BandInRange s.params s.row.toNat) (hfree : s.inflight.get s.sel = false) :
      RefreshMove s (drainTest (afterProduce s))
  /-- OVERLAP = 1: the consumer step for the oldest entry (42_transfer_scheduler.md R133). -/
  | consume (e : BandWriteReq) (rest : List BandWriteReq) (hover : s.params.overlap = true)
      (hphase : s.phase = .convert ∨ s.phase = .drain) (hpending : s.pending = e :: rest)
      (hband : BandInRange s.params e.row.toNat) :
      RefreshMove s (afterConsume e rest s)
  /-- OVERLAP = 1: completion in DRAIN (42_transfer_scheduler.md R135). -/
  | complete (hover : s.params.overlap = true) (hphase : s.phase = .drain) (hpending : s.pending = []) :
      RefreshMove s (respond .ok 0x00#8 s)

theorem refreshStep_move {turn : Turn} {s t : State} (h : refreshStep turn s = .next t)
    (hi : s.phase ≠ .idle) : RefreshMove s t := by
  obtain ⟨hover, hphase, h⟩ | ⟨hover, hphase, _, h⟩ | ⟨_, _, _, rfl⟩ | ⟨hover, hphase, h⟩ :=
    refreshStep_next h hi
  · obtain ⟨hfree, hband, rfl⟩ := convertStep_next h
    exact .convert hover hphase hband hfree
  · obtain ⟨hband, rfl⟩ := writeStep_next h
    exact .write hover hphase hband
  · exact .wait
  · obtain ⟨hconvert, h⟩ | ⟨e, rest, hpending, _, h⟩ |
      ⟨hdrain, hpending, rfl⟩ | ⟨_, _, _, rfl⟩ := overlapStep_next h
    · obtain ⟨hfree, hband, rfl⟩ := producerStep_next h
      exact .produce hover hconvert hband hfree
    · obtain ⟨hband, rfl⟩ := consumerStep_next h
      exact .consume e rest hover hphase hpending hband
    · exact .complete hover hdrain hpending
    · exact .wait

end Sys2Proof.Machine
end

section
/-! PROOF. The output streams only grow and the parameters stay (10_state.md R29, 00_scope.md R3), move by
move. -/

namespace Sys2Proof.Machine

/-- From `s` to `t` the two output streams have only grown and the parameters are the same. -/
structure Grows (s t : State) : Prop where
  panel : s.panelOut <+: t.panelOut
  rsp : s.rspOut <+: t.rspOut
  params : t.params = s.params

theorem Grows.trans {s t u : State} (h : Grows s t) (k : Grows t u) : Grows s u :=
  ⟨h.panel.trans k.panel, h.rsp.trans k.rsp, k.params.trans h.params⟩

/-- An operation that leaves both streams and the parameters alone. -/
theorem grows_of_eq {s t : State} (hpanel : t.panelOut = s.panelOut) (hrsp : t.rspOut = s.rspOut)
    (hparams : t.params = s.params) : Grows s t :=
  ⟨by rw [hpanel], by rw [hrsp], hparams⟩

theorem grows_respond (st : Status) (data : Byte) (s : State) : Grows s (respond st data s) :=
  ⟨List.prefix_rfl, List.prefix_append _ _, rfl⟩

/-- An operation that only appends to PANEL_OUT. -/
theorem grows_of_panel {s t : State} (syms : List Symbol) (hpanel : t.panelOut = s.panelOut ++ syms)
    (hrsp : t.rspOut = s.rspOut) (hparams : t.params = s.params) : Grows s t :=
  ⟨by rw [hpanel]; exact List.prefix_append _ _, by rw [hrsp], hparams⟩

theorem grows_convertRows (r : Nat) (slot : Bool) (s : State) : Grows s (convertRows r slot s) :=
  grows_of_eq (by simp) (by simp) (by simp)

theorem grows_loopTest (s : State) : Grows s (loopTest s) := by
  unfold loopTest
  split
  · exact grows_of_eq rfl rfl rfl
  · exact grows_respond _ _ s

theorem grows_drainTest (s : State) : Grows s (drainTest s) := by
  unfold drainTest
  split <;> exact grows_of_eq rfl rfl rfl

theorem CommandMove.grows {s t : State} (h : CommandMove s t) : Grows s t := by
  cases h with
  | raised e => exact grows_respond _ _ s
  | read a => exact grows_respond _ _ s
  | drawn m => exact (grows_of_eq rfl rfl rfl : Grows s { s with fb := m }).trans (grows_respond _ _ _)
  | converted r => exact (grows_convertRows r s.sel s).trans (grows_respond _ _ _)
  | accepted => exact grows_of_eq rfl rfl rfl

theorem RefreshMove.grows {s t : State} (h : RefreshMove s t) : Grows s t := by
  cases h with
  | convert => exact (grows_convertRows s.row.toNat s.sel s).trans (grows_of_eq rfl rfl rfl)
  | write => exact (grows_of_panel _ rfl rfl rfl : Grows s (afterWrite s)).trans (grows_loopTest _)
  | wait => exact grows_of_eq rfl rfl rfl
  | produce =>
    have hissue : Grows (convertRows s.row.toNat s.sel s) (afterProduce s) := grows_of_eq rfl rfl rfl
    exact ((grows_convertRows s.row.toNat s.sel s).trans hissue).trans (grows_drainTest _)
  | consume e rest => exact grows_of_panel _ rfl rfl rfl
  | complete => exact grows_respond _ _ s

theorem step_grows {s t : State} (h : step s = .next t) : Grows s t := by
  obtain ⟨_, ⟨n, _, rfl⟩ | ⟨_, _, _, rfl⟩ | ⟨w, ws, _, _, _, h⟩ | ⟨hi, _, h⟩⟩ := step_next h
  · exact grows_of_panel _ rfl rfl rfl
  · exact grows_of_eq rfl rfl rfl
  · exact (grows_of_eq rfl rfl rfl : Grows s { s with cmdIn := ws, turns := s.turns.tail }).trans
      (runWord_commandMove h).grows
  · exact (grows_of_eq rfl rfl rfl : Grows s (popTurn s)).trans (refreshStep_move h hi).grows

/-- Settles O16: every move appends to the streams or leaves them, and none writes the parameters. -/
theorem streamsGrowAndParametersStay : Obligations.StreamsGrowAndParametersStay := by
  unfold Obligations.StreamsGrowAndParametersStay
  intro s t h
  obtain ⟨hpanel, hrsp, hparams⟩ := step_grows h
  exact ⟨hpanel, hrsp, hparams⟩

end Sys2Proof.Machine
end

section
/-! PROOF. The bands of a frame: the next row, its slot, and the list of pending band-writes
(10_state.md R37, 42_transfer_scheduler.md R124, R132, R133). -/

namespace Sys2Proof.Machine

theorem legal_bandHeight_pos {p : Params} (h : p.Legal) : 0 < p.bandHeight := by
  obtain ⟨_, _, _, _, hpos, _⟩ := h
  exact hpos

theorem legal_bandHeight_dvd {p : Params} (h : p.Legal) : p.bandHeight ∣ p.height := by
  obtain ⟨_, _, _, _, _, _, hmod, _⟩ := h
  exact Nat.dvd_of_mod_eq_zero hmod

/-- `row + BAND_HEIGHT` fits `row`, because the band lies in the frame (42_transfer_scheduler.md R124). -/
theorem nextRow_toNat {p : Params} (hl : p.Legal) {row : Half} (hb : BandInRange p row.toNat) :
    (BitVec.ofNat 16 (row.toNat + p.bandHeight)).toNat = row.toNat + p.bandHeight := by
  obtain ⟨_, _, _, hheight, _⟩ := hl
  rw [BitVec.toNat_ofNat]
  exact Nat.mod_eq_of_lt (by omega)

/-- An aligned row above the bottom edge has its whole band in the frame. -/
theorem bandInRange_of_lt {p : Params} (hl : p.Legal) {r : Nat} (hr : p.bandHeight ∣ r)
    (hlt : r < p.height) : BandInRange p r := by
  have hrest : p.bandHeight ≤ p.height - r :=
    Nat.le_of_dvd (Nat.sub_pos_of_lt hlt) (Nat.dvd_sub (legal_bandHeight_dvd hl) hr)
  unfold BandInRange
  omega

theorem bandSlot_zero (p : Params) : p.bandSlot 0 = false := by simp [Params.bandSlot]

/-- Bands use the two slots in turn (42_transfer_scheduler.md R130). -/
theorem bandSlot_add_bandHeight {p : Params} (hpos : 0 < p.bandHeight) (r : Nat) :
    p.bandSlot (r + p.bandHeight) = !p.bandSlot r := by
  unfold Params.bandSlot
  rw [Nat.add_div_right _ hpos]
  obtain h | h := Nat.mod_two_eq_zero_or_one (r / p.bandHeight) <;> simp [h, Nat.add_mod]

/-- `pending` has at most two entries (10_state.md R26). -/
theorem PendingBands.length_le {p : Params} {row : Nat} {l : List BandWriteReq}
    (h : PendingBands p row l) : l.length ≤ 2 := by
  match l, h with
  | [], _ => exact Nat.zero_le 2
  | [_], _ => exact Nat.le_succ 1
  | [_, _], _ => exact Nat.le_refl 2

theorem PendingBands.tail {p : Params} {row : Nat} {e : BandWriteReq} {rest : List BandWriteReq}
    (h : PendingBands p row (e :: rest)) : PendingBands p row rest := by
  match rest, h with
  | [], _ => trivial
  | [b], ⟨hab, hb, _, hslot, hdvd⟩ =>
    exact ⟨hb, hslot, hab ▸ Nat.dvd_add_self_right.mpr hdvd⟩

/-- Two pending band-writes are of different slots. -/
theorem PendingBands.head_slot_free {p : Params} (hpos : 0 < p.bandHeight) {row : Nat}
    {e : BandWriteReq} {rest : List BandWriteReq} (h : PendingBands p row (e :: rest)) :
    ∀ b ∈ rest, b.slot ≠ e.slot := by
  match rest, h with
  | [], _ => simp
  | [b], ⟨hab, _, ha, hb, _⟩ =>
    have hslot : b.slot = !e.slot := by rw [hb, ← hab, bandSlot_add_bandHeight hpos, ha]
    simp [hslot]

/-- Issuing the band at `row` into its slot, which no pending band-write uses. -/
theorem PendingBands.issue {p : Params} (hpos : 0 < p.bandHeight) {row : Half} {l : List BandWriteReq}
    (hdvd : p.bandHeight ∣ row.toNat) (h : PendingBands p row.toNat l)
    (hfree : ∀ e ∈ l, e.slot ≠ p.bandSlot row.toNat) :
    PendingBands p (row.toNat + p.bandHeight) (l ++ [⟨row, p.bandSlot row.toNat⟩]) := by
  match l, h with
  | [], _ => exact ⟨rfl, rfl, hdvd⟩
  | [a], ⟨hrow, hslot, ha⟩ => exact ⟨hrow, rfl, hslot, rfl, ha⟩
  | [a, b], ⟨hab, hrow, hslot, _, _⟩ =>
    refine absurd ?_ (hfree a (by simp))
    rw [hslot, ← hrow, ← hab, bandSlot_add_bandHeight hpos, bandSlot_add_bandHeight hpos, Bool.not_not]

end Sys2Proof.Machine
end

section
/-! PROOF. The invariant in two parts: the clauses that name neither `phase` nor `sel`, which every operation
keeps by itself, and what each phase asks besides. -/

namespace Sys2Proof.Machine

/-! ### A slot that holds its band -/

/-- Whether a slot holds a band depends on the parameters, FB, the reset count and that slot. -/
theorem HoldsBand.congr {s t : State} {slot : Bool} {r : Nat} (h : HoldsBand s slot r)
    (hp : t.params = s.params) (hf : t.fb = s.fb) (hr : t.run = s.run)
    (hs : t.stage.get slot = s.stage.get slot) : HoldsBand t slot r := by
  intro q hq
  rw [hp] at hq
  rw [hs, h q hq, bandPixel, bandPixel, nativeAt_congr hf hr, hp]

/-- A conversion fills its slot with the band (41_band_converter.md R105). -/
theorem holdsBand_convertRows (r : Nat) (slot : Bool) (s : State) :
    HoldsBand (convertRows r slot s) slot r := by
  intro q hq
  rw [convertRows_params] at hq
  rw [read_convertRows, if_pos hq, bandPixel, nativeAt_congr (convertRows_fb r slot s)
    (convertRows_run r slot s), convertRows_params]

/-- A conversion leaves the band held by the other slot. -/
theorem HoldsBand.convertRows_other {s : State} {slot other : Bool} {r r' : Nat}
    (h : HoldsBand s other r') (hne : other ≠ slot) : HoldsBand (convertRows r slot s) other r' :=
  h.congr (by simp) (by simp) (by simp) (convertRows_stage_other hne)

/-! ### The two parts -/

/-- The clauses of `Inv` that name neither `phase` nor `sel`. -/
structure CommonInv (s : State) : Prop where
  legal : s.params.Legal
  fbWf : Memory.wf s.params.fbBytes s.fb = true
  stageWf : ∀ slot, Memory.wf s.params.bandPixels (s.stage.get slot) = true
  rowAligned : s.params.bandHeight ∣ s.row.toNat
  rowInFrame : s.row.toNat ≤ s.params.height
  pendingBands : PendingBands s.params s.row.toNat s.pending
  inflightPending : ∀ slot, s.inflight.get slot = s.pending.any fun e => e.slot == slot
  pendingHolds : ∀ e ∈ s.pending, HoldsBand s e.slot e.row.toNat

/-- What `Inv` asks of the phase the block is in. -/
inductive PhaseInv (s : State) : Prop
  | idle (hphase : s.phase = .idle) (hpending : s.pending = [])
  | convert (hphase : s.phase = .convert) (hpending : s.params.overlap = false → s.pending = [])
      (hrow : BandInRange s.params s.row.toNat) (hsel : s.sel = s.params.bandSlot s.row.toNat)
  | write (hphase : s.phase = .write) (hover : s.params.overlap = false) (hpending : s.pending = [])
      (hrow : BandInRange s.params s.row.toNat) (hsel : s.sel = s.params.bandSlot s.row.toNat)
      (hholds : HoldsBand s s.sel s.row.toNat)
  | drain (hphase : s.phase = .drain) (hover : s.params.overlap = true)
      (hrow : s.row.toNat = s.params.height) (hsel : s.sel = s.params.bandSlot s.row.toNat)

theorem Inv.common {s : State} (h : Inv s) : CommonInv s :=
  ⟨h.legal, h.fbWf, h.stageWf, h.rowAligned, h.rowInFrame, h.pendingBands, h.inflightPending,
    h.pendingHolds⟩

/-- With nothing pending no slot is in flight. -/
theorem CommonInv.quiet {s : State} (h : CommonInv s) (hp : s.pending = []) (slot : Bool) :
    s.inflight.get slot = false := by rw [h.inflightPending, hp]; rfl

/-- A slot not in flight is that of no pending band-write. -/
theorem CommonInv.slot_ne {s : State} (h : CommonInv s) {slot : Bool}
    (hfree : s.inflight.get slot = false) : ∀ e ∈ s.pending, e.slot ≠ slot := by
  rw [h.inflightPending] at hfree
  simpa using hfree

theorem CommonInv.inv {s : State} (h : CommonInv s) (hp : PhaseInv s) : Inv s where
  legal := h.legal
  fbWf := h.fbWf
  stageWf := h.stageWf
  rowAligned := h.rowAligned
  rowInFrame := h.rowInFrame
  pendingBands := h.pendingBands
  inflightPending := h.inflightPending
  pendingHolds := h.pendingHolds
  idleQuiet hi := by
    have hpending : s.pending = [] := by cases hp <;> simp_all
    exact ⟨hpending, h.quiet hpending⟩
  sequentialQuiet ho := by
    have hpending : s.pending = [] := by cases hp <;> simp_all
    exact ⟨hpending, h.quiet hpending, by cases hp <;> simp_all⟩
  overlapPhase ho := by cases hp <;> simp_all
  loopRow hl := by cases hp <;> simp_all
  drainRow hd := by cases hp <;> simp_all
  selParity hi := by cases hp <;> simp_all
  writeHolds hw := by cases hp <;> simp_all

/-! ### What keeps the common part -/

/-- `sel`, `phase` and the ports are no part of it. -/
theorem CommonInv.update {s : State} (h : CommonInv s) (sel : Bool) (phase : Phase)
    (panelOut : List Symbol) (rspOut : List Half) (cmdIn : List CmdWord) (turns : List Turn) :
    CommonInv { s with sel, phase, panelOut, rspOut, cmdIn, turns } :=
  ⟨h.legal, h.fbWf, h.stageWf, h.rowAligned, h.rowInFrame, h.pendingBands, h.inflightPending,
    h.pendingHolds⟩

/-- FB may change while nothing is pending. -/
theorem CommonInv.withFb {s : State} (h : CommonInv s) (hp : s.pending = []) {m : Memory 8}
    (hm : Memory.wf s.params.fbBytes m = true) : CommonInv { s with fb := m } :=
  { h with
    fbWf := hm
    pendingHolds := by simp [hp] }

/-- `row` may change, within its bounds, while nothing is pending. -/
theorem CommonInv.withRow {s : State} (h : CommonInv s) (hp : s.pending = []) {row : Half}
    (hdvd : s.params.bandHeight ∣ row.toNat) (hle : row.toNat ≤ s.params.height) :
    CommonInv { s with row } :=
  { h with
    rowAligned := hdvd
    rowInFrame := hle
    pendingBands := by rw [hp]; trivial
    pendingHolds := h.pendingHolds }

/-- A conversion into a slot not in flight (70_reset_and_hazards.md R173). -/
theorem CommonInv.convertRows {s : State} (h : CommonInv s) (r : Nat) {slot : Bool}
    (hfree : s.inflight.get slot = false) : CommonInv (convertRows r slot s) where
  legal := by simpa using h.legal
  fbWf := by simpa using h.fbWf
  stageWf := by simpa using convertRows_stageWf h.stageWf
  rowAligned := by simpa using h.rowAligned
  rowInFrame := by simpa using h.rowInFrame
  pendingBands := by simpa using h.pendingBands
  inflightPending := by simpa using h.inflightPending
  pendingHolds e he := by
    rw [convertRows_pending] at he
    exact (h.pendingHolds e he).convertRows_other (h.slot_ne hfree e he)

section
variable {s : State}

/-- The next row is aligned and in the frame (42_transfer_scheduler.md R124). -/
theorem CommonInv.nextRow (h : CommonInv s) (hb : BandInRange s.params s.row.toNat) :
    s.params.bandHeight ∣ (BitVec.ofNat 16 (s.row.toNat + s.params.bandHeight)).toNat ∧
    (BitVec.ofNat 16 (s.row.toNat + s.params.bandHeight)).toNat ≤ s.params.height := by
  rw [nextRow_toNat h.legal hb]
  exact ⟨Nat.dvd_add_self_right.mpr h.rowAligned, hb⟩

/-- The slot after `sel` is that of the next row. -/
theorem CommonInv.nextSel (h : CommonInv s) (hb : BandInRange s.params s.row.toNat)
    (hsel : s.sel = s.params.bandSlot s.row.toNat) :
    (!s.sel) = s.params.bandSlot (BitVec.ofNat 16 (s.row.toNat + s.params.bandHeight)).toNat := by
  rw [nextRow_toNat h.legal hb, bandSlot_add_bandHeight (legal_bandHeight_pos h.legal), hsel]

/-- The write step, before its loop test. -/
theorem CommonInv.afterWrite (h : CommonInv s) (hp : s.pending = [])
    (hb : BandInRange s.params s.row.toNat) : CommonInv (afterWrite s) := by
  have hset : s.inflight.set s.sel false = s.inflight := by
    rw [← h.quiet hp s.sel, TwoSlots.set_get]
  have hrow := (h.withRow hp (h.nextRow hb).1 (h.nextRow hb).2).update
    (!s.sel) s.phase (s.panelOut ++ frame s s.row s.sel) s.rspOut s.cmdIn s.turns
  unfold Machine.afterWrite
  rw [hset]
  exact hrow

/-- The producer step, before its test for DRAIN: the new entry is of a free slot, which now holds its
band. -/
theorem CommonInv.afterProduce (h : CommonInv s) (hb : BandInRange s.params s.row.toNat)
    (hsel : s.sel = s.params.bandSlot s.row.toNat) (hfree : s.inflight.get s.sel = false) :
    CommonInv (afterProduce s) := by
  have hc := h.convertRows s.row.toNat hfree
  obtain ⟨hdvd, hle⟩ := h.nextRow hb
  have hpos := legal_bandHeight_pos h.legal
  have hne := h.slot_ne hfree
  exact
    { legal := hc.legal
      fbWf := hc.fbWf
      stageWf := hc.stageWf
      rowAligned := by simpa [Machine.afterProduce] using hdvd
      rowInFrame := by simpa [Machine.afterProduce] using hle
      pendingBands := by
        simp only [Machine.afterProduce, convertRows_params]
        rw [nextRow_toNat h.legal hb, hsel]
        exact h.pendingBands.issue hpos h.rowAligned (hsel ▸ hne)
      inflightPending := by
        intro slot
        simp only [Machine.afterProduce, TwoSlots.get_set, List.any_append, ← h.inflightPending]
        by_cases hs : slot = s.sel
        · simp [hs]
        · simp [hs, Ne.symm hs]
      pendingHolds := by
        intro e he
        obtain he | he := List.mem_append.mp he
        · exact hc.pendingHolds e (by simpa using he)
        · obtain rfl := List.mem_singleton.mp he
          exact holdsBand_convertRows s.row.toNat s.sel s }

/-- The consumer step: the oldest entry goes, and its slot is that of no other. -/
theorem CommonInv.afterConsume (h : CommonInv s) {e : BandWriteReq} {rest : List BandWriteReq}
    (hp : s.pending = e :: rest) : CommonInv (afterConsume e rest s) := by
  have hbands := h.pendingBands
  rw [hp] at hbands
  have hfree := hbands.head_slot_free (legal_bandHeight_pos h.legal)
  exact
    { legal := h.legal
      fbWf := h.fbWf
      stageWf := h.stageWf
      rowAligned := h.rowAligned
      rowInFrame := h.rowInFrame
      pendingBands := hbands.tail
      inflightPending := by
        intro slot
        simp only [Machine.afterConsume, TwoSlots.get_set, h.inflightPending, hp, List.any_cons]
        by_cases hs : slot = e.slot
        · subst hs; simpa using hfree
        · simp [hs, Ne.symm hs]
      pendingHolds := fun b hb => h.pendingHolds b (by rw [hp]; exact List.mem_cons_of_mem e hb) }

end

end Sys2Proof.Machine
end

section
/-! PROOF. The invariant holds at reset, every step keeps it, and so it holds of every reachable state
(10_state.md R36, R37). -/

namespace Sys2Proof.Machine

variable {s t : State}

/-! ### Reset -/

/-- The reset values meet the invariant, whatever the ports hold and however often the block was reset. -/
theorem inv_resetWith {p : Params} (hl : p.Legal) (panelOut : List Symbol) (rspOut : List Half)
    (cmdIn : List CmdWord) (turns : List Turn) (run : Nat) :
    Inv { State.resetWith p with panelOut, rspOut, cmdIn, turns, run } := by
  refine CommonInv.inv ?_ (.idle rfl rfl)
  exact
    { legal := hl
      fbWf := rfl
      stageWf := fun slot => by cases slot <;> rfl
      rowAligned := Nat.dvd_zero _
      rowInFrame := Nat.zero_le _
      pendingBands := trivial
      inflightPending := fun slot => by cases slot <;> rfl
      pendingHolds := fun _ he => by cases he }

theorem inv_resetEvent (hl : s.params.Legal) (n : Nat) : Inv (resetEvent n s) :=
  inv_resetWith hl _ _ _ _ _

/-- Settles O55: the reset values with empty ports. -/
theorem resetMeetsTheInvariant : Obligations.ResetMeetsTheInvariant := by
  unfold Obligations.ResetMeetsTheInvariant
  have hreset : ∀ p : Params, p.Legal → Inv (State.resetWith p) :=
    fun p hl => inv_resetWith hl [] [] [] [] 0
  exact ⟨hreset Params.atReset (by decide), hreset⟩

/-! ### Every move -/

/-- A command word or a turn taken off its port. -/
theorem Inv.withPorts (h : Inv s) (cmdIn : List CmdWord) (turns : List Turn) :
    Inv { s with cmdIn, turns } :=
  { h with
    writeHolds := h.writeHolds
    pendingHolds := h.pendingHolds }

/-- A response returns the block to IDLE, which it may while nothing is pending. -/
theorem CommonInv.inv_respond (h : CommonInv s) (hp : s.pending = []) (st : Status) (data : Byte) :
    Inv (respond st data s) :=
  (h.update s.sel .idle s.panelOut _ s.cmdIn s.turns).inv (.idle rfl hp)

theorem CommandMove.inv (hm : CommandMove s t) (h : Inv s) (hi : s.phase = .idle) : Inv t := by
  have hp : s.pending = [] := (h.idleQuiet hi).1
  cases hm with
  | raised e => exact h.common.inv_respond hp e _
  | read a => exact h.common.inv_respond hp _ _
  | drawn m hwf => exact (h.common.withFb hp (hwf h.fbWf)).inv_respond hp _ _
  | converted r _ hfree => exact (h.common.convertRows r hfree).inv_respond (by simpa using hp) _ _
  | accepted =>
    obtain ⟨_, _, _, _, _, hband, _⟩ := h.legal
    refine ((h.common.withRow hp (row := 0#16) (Nat.dvd_zero _) (Nat.zero_le _)).update
      false .convert s.panelOut s.rspOut s.cmdIn s.turns).inv (.convert rfl (fun _ => hp) ?_ ?_)
    · simpa using hband
    · simp [bandSlot_zero]

/-- The loop test goes on to a band in the frame or completes. -/
theorem inv_loopTest (h : CommonInv s) (hp : s.pending = [])
    (hsel : s.sel = s.params.bandSlot s.row.toNat) : Inv (loopTest s) := by
  by_cases hlt : s.row.toNat < s.params.height
  · rw [loopTest_lt hlt]
    exact (h.update s.sel .convert s.panelOut s.rspOut s.cmdIn s.turns).inv
      (.convert rfl (fun _ => hp) (bandInRange_of_lt h.legal h.rowAligned hlt) hsel)
  · rw [loopTest_ge (Nat.not_lt.mp hlt)]
    exact h.inv_respond hp _ _

/-- The producer's test goes on to a band in the frame or to DRAIN. -/
theorem inv_drainTest (h : CommonInv s) (hover : s.params.overlap = true) (hphase : s.phase = .convert)
    (hsel : s.sel = s.params.bandSlot s.row.toNat) : Inv (drainTest s) := by
  by_cases hlt : s.row.toNat < s.params.height
  · rw [drainTest_lt hlt]
    exact h.inv (.convert hphase (by simp [hover]) (bandInRange_of_lt h.legal h.rowAligned hlt) hsel)
  · have hge := Nat.not_lt.mp hlt
    rw [drainTest_ge hge]
    exact (h.update s.sel .drain s.panelOut s.rspOut s.cmdIn s.turns).inv
      (.drain rfl hover (Nat.le_antisymm h.rowInFrame hge) hsel)

theorem RefreshMove.inv (hm : RefreshMove s t) (h : Inv s) (hi : s.phase ≠ .idle) : Inv t := by
  have hsel := h.selParity hi
  cases hm with
  | convert hover hphase hband hfree =>
    have hp := (h.sequentialQuiet hover).1
    refine ((h.common.convertRows s.row.toNat hfree).update _ .write _ _ _ _).inv
      (.write rfl ?_ ?_ ?_ ?_ ?_)
    · simpa using hover
    · simpa using hp
    · simpa using hband
    · simpa using hsel
    · simp only [convertRows_sel, convertRows_row]
      exact (holdsBand_convertRows s.row.toNat s.sel s).congr rfl rfl rfl rfl
  | write hover hphase hband =>
    have hp := (h.sequentialQuiet hover).1
    exact inv_loopTest (h.common.afterWrite hp hband) hp (h.common.nextSel hband hsel)
  | wait => exact h
  | produce hover hphase hband hfree =>
    refine inv_drainTest (h.common.afterProduce hband hsel hfree) ?_ ?_ ?_
    · simpa [afterProduce] using hover
    · simpa [afterProduce] using hphase
    · simpa [afterProduce] using h.common.nextSel hband hsel
  | consume e rest hover hphase hpending =>
    refine (h.common.afterConsume hpending).inv ?_
    obtain hphase | hphase := hphase
    · exact .convert hphase (by simp [afterConsume, hover]) (h.loopRow (.inl hphase)) hsel
    · exact .drain hphase hover (h.drainRow hphase) hsel
  | complete _ _ hpending => exact h.common.inv_respond hpending _ _

/-! ### Every step and every run -/

theorem step_inv (h : Inv s) (hstep : step s = .next t) : Inv t := by
  obtain ⟨hl, ⟨n, _, rfl⟩ | ⟨_, _, _, rfl⟩ | ⟨w, ws, hi, _, _, hrun⟩ | ⟨hi, _, hrefresh⟩⟩ :=
    step_next hstep
  · exact inv_resetEvent (s := popTurn s) hl n
  · exact h.withPorts s.cmdIn s.turns.tail
  · exact (runWord_commandMove hrun).inv (h.withPorts ws s.turns.tail) hi
  · exact (refreshStep_move hrefresh hi).inv (h.withPorts s.cmdIn s.turns.tail) hi

/-- Settles O56, by the cases of `step_next`: the reset values meet the invariant, and every move of a command
or of a REFRESH keeps its common part and enters a phase whose clauses hold. -/
theorem everyStepKeepsTheInvariant : Obligations.EveryStepKeepsTheInvariant := by
  unfold Obligations.EveryStepKeepsTheInvariant
  intro s t h hstep
  exact step_inv h hstep

/-- What every step keeps, every run keeps. -/
theorem core_run_keeps {P : State → Prop} (hkeep : ∀ s t, P s → step s = .next t → P t) {n : Nat}
    {s t : State} (h : P s) (hrun : Host.Core.run core n s = .next t) : P t := by
  induction n generalizing s with
  | zero => cases hrun; exact h
  | succ n ih =>
    obtain ⟨u, hstep, hrest⟩ := core_run_inv hrun
    exact ih (hkeep s u h hstep) hrest

/-- A run keeps the invariant and the parameters. -/
theorem core_run_inv_params {n : Nat} (h : Inv s) (hrun : Host.Core.run core n s = .next t) :
    Inv t ∧ t.params = s.params := by
  refine core_run_keeps (P := fun u => Inv u ∧ u.params = s.params) ?_ ⟨h, rfl⟩ hrun
  rintro u v ⟨hu, hp⟩ hstep
  exact ⟨step_inv hu hstep, (step_grows hstep).params.trans hp⟩

/-- Settles O58: the clauses of the invariant at the end of a run from reset. -/
theorem reachableStatesAreInOrder : Obligations.ReachableStatesAreInOrder := by
  unfold Obligations.ReachableStatesAreInOrder
  intro p words turns n t hl hrun
  obtain ⟨h, rfl⟩ := core_run_inv_params (inv_resetWith hl [] [] words turns 0) hrun
  refine ⟨h.rowAligned, h.rowInFrame, h.idleQuiet, ?_, ?_, h.pendingBands.length_le⟩
  · intro hloop
    have hi : t.phase ≠ .idle := by rintro hi; simp [hi] at hloop
    exact h.selParity hi
  · intro hover
    obtain ⟨hpending, hquiet, _⟩ := h.sequentialQuiet hover
    exact ⟨hpending, hquiet⟩

end Sys2Proof.Machine
end

section
/-! PROOF. The step that takes a command word (20_memory.md R50): the block in IDLE runs the command that the
word on its port decodes to. -/

namespace Sys2Proof.Machine

variable {s : State} {w : CmdWord} {ws : List CmdWord} {i : Instr}

theorem runWord_ok (hd : decode w = .ok i) (s : State) : runWord w s = exec i s := by
  unfold runWord
  rw [hd]

theorem idleStep_cons (hc : s.cmdIn = w :: ws) : idleStep s = runWord w { s with cmdIn := ws } := by
  unfold idleStep takeCommand
  rw [hc]

/-- A step in IDLE with a word on the command port, whether the word is legal or not. -/
theorem step_idle_cons (hl : s.params.Legal) (hi : s.phase = .idle) (hc : s.cmdIn = w :: ws)
    (hr : ∀ n, s.turns.head? ≠ some (.reset n)) :
    step s = runWord w { s with cmdIn := ws, turns := s.turns.tail } := by
  rw [step_run hl hr, if_pos hi]
  exact idleStep_cons (s := popTurn s) hc

/-- What the decoder of table words reads, the decoder of command words reads from the same bits. -/
theorem decode_tableWord {nbits n : Nat} (h : decodeTableWord nbits n = some i) :
    decode (tableWord nbits n) = .ok i := by
  unfold decodeTableWord at h
  split at h
  · cases h
  · split at h
    · rename_i j hd
      cases h
      exact hd
    · cases h

/-- Settles O9: the step runs the word taken, and a word that decodes runs its command. -/
theorem stepRunsTheDecodedCommand : Obligations.StepRunsTheDecodedCommand := by
  unfold Obligations.StepRunsTheDecodedCommand
  intro s w ws i hl hi hc hd hr
  rw [step_idle_cons hl hi hc hr, runWord_ok hd]

/-- Settles O10: `withFetchWord` leaves the table word at the head of the port of a block in IDLE with no turn
set, so the step is that of `step_idle_cons`. -/
theorem fetchWordRunsNext : Obligations.FetchWordRunsNext := by
  unfold Obligations.FetchWordRunsNext
  intro s nbits w i hl hd
  have hr : ∀ n, (s.withFetchWord nbits w).turns.head? ≠ some (.reset n) := by
    simp [State.withFetchWord]
  rw [step_idle_cons (s := s.withFetchWord nbits w) hl rfl rfl hr, runWord_ok (decode_tableWord hd)]
  rfl

end Sys2Proof.Machine
end

section
/-! PROOF. A REFRESH reads FB and leaves the command port alone (20_memory.md R54), move by move. -/

namespace Sys2Proof.Machine

/-- From `s` to `t` FB, the reset count its unwritten bytes are read under, and the words on the command port
are the same. -/
structure KeepsStore (s t : State) : Prop where
  fb : t.fb = s.fb
  run : t.run = s.run
  cmdIn : t.cmdIn = s.cmdIn

theorem KeepsStore.trans {s t u : State} (h : KeepsStore s t) (k : KeepsStore t u) : KeepsStore s u :=
  ⟨k.fb.trans h.fb, k.run.trans h.run, k.cmdIn.trans h.cmdIn⟩

@[simp] theorem convertRows_cmdIn (r : Nat) (slot : Bool) (s : State) :
    (convertRows r slot s).cmdIn = s.cmdIn := by rw [convertRows_eq]

theorem keepsStore_convertRows (r : Nat) (slot : Bool) (s : State) :
    KeepsStore s (convertRows r slot s) :=
  ⟨convertRows_fb r slot s, convertRows_run r slot s, convertRows_cmdIn r slot s⟩

theorem keepsStore_loopTest (s : State) : KeepsStore s (loopTest s) := by
  unfold loopTest
  split <;> exact ⟨rfl, rfl, rfl⟩

theorem keepsStore_drainTest (s : State) : KeepsStore s (drainTest s) := by
  unfold drainTest
  split <;> exact ⟨rfl, rfl, rfl⟩

/-- No move of the scheduler writes FB or takes a command word. -/
theorem RefreshMove.keepsStore {s t : State} (h : RefreshMove s t) : KeepsStore s t := by
  cases h with
  | convert => exact (keepsStore_convertRows s.row.toNat s.sel s).trans ⟨rfl, rfl, rfl⟩
  | write =>
    have hwritten : KeepsStore s (afterWrite s) := ⟨rfl, rfl, rfl⟩
    exact hwritten.trans (keepsStore_loopTest _)
  | wait => exact ⟨rfl, rfl, rfl⟩
  | produce =>
    have hissue : KeepsStore (convertRows s.row.toNat s.sel s) (afterProduce s) := ⟨rfl, rfl, rfl⟩
    exact ((keepsStore_convertRows s.row.toNat s.sel s).trans hissue).trans (keepsStore_drainTest _)
  | consume => exact ⟨rfl, rfl, rfl⟩
  | complete => exact ⟨rfl, rfl, rfl⟩

/-- A step with a REFRESH in progress and no reset is a move of the scheduler. -/
theorem step_refreshMove {s t : State} (hi : s.phase ≠ .idle) (hr : ∀ n, s.turns.head? ≠ some (.reset n))
    (h : step s = .next t) : RefreshMove (popTurn s) t := by
  obtain ⟨_, ⟨n, hn, _⟩ | ⟨hidle, _⟩ | ⟨_, _, hidle, _⟩ | ⟨_, _, hrefresh⟩⟩ := step_next h
  · exact absurd hn (hr n)
  · exact absurd hidle hi
  · exact absurd hidle hi
  · exact refreshStep_move hrefresh hi

/-- Settles O15: the step is a move of the scheduler, and each of those keeps FB and the command port. -/
theorem framebufferFixedWhileRefreshing : Obligations.FramebufferFixedWhileRefreshing := by
  unfold Obligations.FramebufferFixedWhileRefreshing
  intro s t hi hr h
  obtain ⟨hfb, hrun, hcmd⟩ := (step_refreshMove hi hr h).keepsStore
  exact ⟨hfb, fun a => fbRead_congr hfb hrun a, hcmd⟩

end Sys2Proof.Machine
end

section
/-! PROOF. The wire order of a converted pixel (20_memory.md R45): the byte exchange of the conversion and the
low-byte-first emission cancel, and the pixels of a slot follow the eleven symbols of the header in pairs. -/

namespace Sys2Proof.Machine

theorem lo8_swap16 (v : Half) : lo8 (swap16 v) = hi8 v := by
  unfold lo8 swap16
  exact BitVec.extractLsb'_append_eq_right

theorem hi8_swap16 (v : Half) : hi8 (swap16 v) = lo8 v := by
  unfold hi8 swap16
  exact BitVec.extractLsb'_append_eq_left

/-- A native pixel goes out as the un-swapped 5-6-5 value, high byte first. -/
theorem wordSymbols_nativeAt (s : State) (a : Nat) : wordSymbols (nativeAt s a) = pixelSymbols s a := by
  unfold wordSymbols nativeAt native pixelSymbols
  rw [lo8_swap16, hi8_swap16]

theorem HoldsBand.stageRead_eq {s : State} {slot : Bool} {r q : Nat} (h : HoldsBand s slot r)
    (hq : q < s.params.bandPixels) : stageRead s slot q = bandPixel s r q := by
  unfold stageRead
  rw [h q hq, Option.getD_some]

/-- The data symbols of a slot that holds a band are those of the band's pixels in FB. -/
theorem HoldsBand.slotSymbols_eq {s : State} {slot : Bool} {r : Nat} (h : HoldsBand s slot r) :
    slotSymbols s slot = (List.range s.params.bandPixels).flatMap fun q =>
      pixelSymbols s (3 * (r * s.params.width + q)) := by
  unfold slotSymbols
  refine List.flatMap_congr fun q hq => ?_
  rw [h.stageRead_eq (List.mem_range.mp hq), bandPixel, wordSymbols_nativeAt]

/-- In a concatenation of pairs, item `j` of pair `p` stands at `2 * p + j`. -/
theorem getElem?_flatMap_range_two {α : Type} (f : Nat → List α) (hf : ∀ k, (f k).length = 2)
    {n p j : Nat} (hp : p < n) (hj : j < 2) : ((List.range n).flatMap f)[2 * p + j]? = (f p)[j]? := by
  have hlen := flatMap_range_length_two f hf
  induction n with
  | zero => exact absurd hp (Nat.not_lt_zero p)
  | succ n ih =>
    rw [List.range_succ, List.flatMap_append, List.flatMap_singleton]
    obtain hlt | rfl := Nat.lt_succ_iff_lt_or_eq.mp hp
    · rw [List.getElem?_append_left (by rw [hlen]; omega), ih hlt]
    · rw [List.getElem?_append_right (by rw [hlen]; omega), hlen, Nat.add_sub_cancel_left]

/-- Pixel `p` of a frame from a slot that holds a band: symbols `11 + 2 * p` and the next. -/
theorem HoldsBand.getElem?_frame {s : State} {slot : Bool} {r p j : Nat} (h : HoldsBand s slot r)
    (hp : p < s.params.bandPixels) (hj : j < 2) (row : Half) :
    (frame s row slot)[11 + (2 * p + j)]? = (pixelSymbols s (3 * (r * s.params.width + p)))[j]? := by
  rw [frame, List.getElem?_append_right (by simp), frameHeader_length, Nat.add_sub_cancel_left,
    h.slotSymbols_eq]
  exact getElem?_flatMap_range_two _ (fun _ => rfl) hp hj

/-- Settles O36: the two symbols of the pixel are `pixelSymbols`, the high and then the low byte of its
`pack565`. -/
theorem pixelsGoOutBigEndian : Obligations.PixelsGoOutBigEndian := by
  unfold Obligations.PixelsGoOutBigEndian
  intro s slot r p row h hp
  constructor
  · exact h.getElem?_frame hp (j := 0) (by omega) row
  · rw [show 12 + 2 * p = 11 + (2 * p + 1) by omega]
    exact h.getElem?_frame hp (by omega) row

end Sys2Proof.Machine
end

section
/-! PROOF. The decoder, one format at a time (30_encoding.md R61 to R65): a word selects a command by its
opcode and its must-be-0 fields, and the command's operands are the remaining fields of the word. The
statements on encoding and decoding follow from `decode_eq_ok_iff`. -/

namespace Sys2Proof

/-- The fields that the format of a command marks "must be 0" are 0 in the word (30_encoding.md R61, R63). -/
def Instr.ReservedZero : Instr → CmdWord → Prop
  | .writePixel _ _ _, _ => True
  | .fill _, w => w.extractLsb' 24 32 = 0#32
  | .readFb _, w => w.extractLsb' 32 24 = 0#24
  | .convertBand _, w => xField w = 0#16 ∧ colorField w = 0#24
  | .refresh, w => w.extractLsb' 0 56 = 0#56

/-- The command of the same format with the operands taken from the word (30_encoding.md R65). -/
def Instr.operandsFrom : Instr → CmdWord → Instr
  | .writePixel _ _ _, w => .writePixel (xField w).toNat (yField w).toNat (colorField w)
  | .fill _, w => .fill (colorField w)
  | .readFb _, w => .readFb (addrField w).toNat
  | .convertBand _, w => .convertBand (yField w).toNat
  | .refresh, _ => .refresh

variable {w : CmdWord} {i : Instr}

theorem Instr.opcode_mem (i : Instr) : i.opcode ∈ [0x01#8, 0x02#8, 0x03#8, 0x10#8, 0x20#8] := by
  cases i <;> simp [Instr.opcode]

/-! ### The opcode and the must-be-0 fields belong to the format, not to the operands -/

@[simp] theorem Instr.opcode_operandsFrom (i : Instr) (w : CmdWord) :
    (i.operandsFrom w).opcode = i.opcode := by cases i <;> rfl

@[simp] theorem Instr.reservedZero_operandsFrom (i : Instr) (v w : CmdWord) :
    (i.operandsFrom v).ReservedZero w ↔ i.ReservedZero w := by cases i <;> rfl

@[simp] theorem Instr.operandsFrom_operandsFrom (i : Instr) (v w : CmdWord) :
    (i.operandsFrom v).operandsFrom w = i.operandsFrom w := by cases i <;> rfl

/-! ### What the decoder answers (30_encoding.md R64) -/

theorem decode_of_reservedZero (hop : opField w = i.opcode) (hz : i.ReservedZero w) :
    decode w = .ok (i.operandsFrom w) := by
  cases i <;> simp_all [decode, Instr.opcode, Instr.ReservedZero, Instr.operandsFrom]

theorem decode_of_not_reservedZero (hop : opField w = i.opcode) (hz : ¬ i.ReservedZero w) :
    decode w = .error (.mustBeZero i.opcode) := by
  cases i <;> simp_all [decode, Instr.opcode, Instr.ReservedZero]

theorem decode_of_other_opcode (h : opField w ∉ [0x01#8, 0x02#8, 0x03#8, 0x10#8, 0x20#8]) :
    decode w = .error (.unknownOp (opField w)) := by
  simp only [List.mem_cons, List.not_mem_nil, or_false, not_or] at h
  obtain ⟨h1, h2, h3, h4, h5⟩ := h
  simp only [decode, h1, h2, h3, h4, h5, if_false]

/-- Each of the five opcodes is that of a command. -/
theorem exists_opcode_eq {op : Byte} (h : op ∈ [0x01#8, 0x02#8, 0x03#8, 0x10#8, 0x20#8]) :
    ∃ i : Instr, op = i.opcode := by
  simp only [List.mem_cons, List.not_mem_nil, or_false] at h
  obtain rfl | rfl | rfl | rfl | rfl := h
  · exact ⟨.writePixel 0 0 0#24, rfl⟩
  · exact ⟨.fill 0#24, rfl⟩
  · exact ⟨.readFb 0, rfl⟩
  · exact ⟨.convertBand 0, rfl⟩
  · exact ⟨.refresh, rfl⟩

/-- A word decodes to a command exactly when it has its opcode, 0 in its must-be-0 fields and its operands in
theirs. -/
theorem decode_eq_ok_iff :
    decode w = .ok i ↔ opField w = i.opcode ∧ i.ReservedZero w ∧ i.operandsFrom w = i := by
  constructor
  · intro h
    by_cases hop : opField w ∈ [0x01#8, 0x02#8, 0x03#8, 0x10#8, 0x20#8]
    · obtain ⟨j, hj⟩ := exists_opcode_eq hop
      by_cases hz : j.ReservedZero w
      · rw [decode_of_reservedZero hj hz] at h
        cases h
        simp [hj, hz]
      · rw [decode_of_not_reservedZero hj hz] at h
        cases h
    · rw [decode_of_other_opcode hop] at h
      cases h
  · rintro ⟨hop, hz, hi⟩
    rw [decode_of_reservedZero hop hz, hi]

/-! ### Encoding and decoding -/

theorem opField_encode (i : Instr) : opField (encode i) = i.opcode := by
  cases i with
  | writePixel x y c => exact Laws.OpcodeByte.writePixel x y c
  | fill c => exact Laws.OpcodeByte.fill c
  | readFb a => exact Laws.OpcodeByte.readFb a
  | convertBand r => exact Laws.OpcodeByte.convertBand r
  | refresh => exact Laws.OpcodeByte.refresh

theorem reservedZero_encode (i : Instr) : i.ReservedZero (encode i) := by
  cases i with
  | writePixel x y c => trivial
  | fill c =>
    have hc := c.isLt
    apply BitVec.eq_of_toNat_eq
    rw [slice_toNat, encode_fill_toNat, BitVec.toNat_ofNat]
    omega
  | readFb a =>
    apply BitVec.eq_of_toNat_eq
    rw [slice_toNat, encode_readFb_toNat, BitVec.toNat_ofNat]
    omega
  | convertBand r =>
    constructor <;> apply BitVec.eq_of_toNat_eq
    · rw [xField_toNat, encode_convertBand_toNat, BitVec.toNat_ofNat]
      omega
    · rw [colorField_toNat, encode_convertBand_toNat, BitVec.toNat_ofNat]
      omega
  | refresh => exact (by decide : (encode .refresh).extractLsb' 0 56 = 0#56)

/-- Operands that fit their fields are read back whole. -/
theorem operandsFrom_encode (h : i.wellFormed = true) : i.operandsFrom (encode i) = i := by
  cases i with
  | writePixel x y c =>
    simp only [Instr.wellFormed, Bool.and_eq_true, decide_eq_true_eq] at h
    obtain ⟨hx, hy⟩ := h
    have hc := c.isLt
    simp only [Instr.operandsFrom, xField_toNat, yField_toNat, encode_writePixel_toNat,
      Instr.writePixel.injEq, ← BitVec.toNat_inj, colorField_toNat]
    omega
  | fill c =>
    have hc := c.isLt
    simp only [Instr.operandsFrom, Instr.fill.injEq, ← BitVec.toNat_inj, colorField_toNat,
      encode_fill_toNat]
    omega
  | readFb a =>
    simp only [Instr.wellFormed, decide_eq_true_eq] at h
    simp only [Instr.operandsFrom, Instr.readFb.injEq, addrField_toNat, encode_readFb_toNat]
    omega
  | convertBand r =>
    simp only [Instr.wellFormed, decide_eq_true_eq] at h
    simp only [Instr.operandsFrom, Instr.convertBand.injEq, yField_toNat, encode_convertBand_toNat]
    omega
  | refresh => rfl

theorem wellFormed_operandsFrom (i : Instr) (w : CmdWord) : (i.operandsFrom w).wellFormed = true := by
  cases i with
  | writePixel => simp [Instr.operandsFrom, Instr.wellFormed, (xField w).isLt, (yField w).isLt]
  | fill => rfl
  | readFb => simp [Instr.operandsFrom, Instr.wellFormed, (addrField w).isLt]
  | convertBand => simp [Instr.operandsFrom, Instr.wellFormed, (yField w).isLt]
  | refresh => rfl

/-- The opcode, the must-be-0 fields and the operands are all the bits of a word: nothing is ignored
(30_encoding.md R63). -/
theorem encode_operandsFrom (hop : opField w = i.opcode) (hz : i.ReservedZero w) :
    encode (i.operandsFrom w) = w := by
  have hw := w.isLt
  apply BitVec.eq_of_toNat_eq
  rw [← BitVec.toNat_inj, opField_toNat] at hop
  cases i with
  | writePixel =>
    simp only [Instr.opcode, BitVec.toNat_ofNat] at hop
    rw [Instr.operandsFrom, encode_writePixel_toNat, xField_toNat, yField_toNat, colorField_toNat]
    omega
  | fill =>
    simp only [Instr.opcode, BitVec.toNat_ofNat] at hop
    rw [Instr.ReservedZero, ← BitVec.toNat_inj, slice_toNat, BitVec.toNat_ofNat] at hz
    rw [Instr.operandsFrom, encode_fill_toNat, colorField_toNat]
    omega
  | readFb =>
    simp only [Instr.opcode, BitVec.toNat_ofNat] at hop
    rw [Instr.ReservedZero, ← BitVec.toNat_inj, slice_toNat, BitVec.toNat_ofNat] at hz
    rw [Instr.operandsFrom, encode_readFb_toNat, addrField_toNat]
    omega
  | convertBand =>
    simp only [Instr.opcode, BitVec.toNat_ofNat] at hop
    simp only [Instr.ReservedZero, ← BitVec.toNat_inj, xField_toNat, colorField_toNat,
      BitVec.toNat_ofNat] at hz
    rw [Instr.operandsFrom, encode_convertBand_toNat, yField_toNat]
    omega
  | refresh =>
    simp only [Instr.opcode, BitVec.toNat_ofNat] at hop
    rw [Instr.ReservedZero, ← BitVec.toNat_inj, slice_toNat, BitVec.toNat_ofNat] at hz
    rw [Instr.operandsFrom, encode_refresh_toNat]
    omega

/-- Settles O1: the word of a command has its opcode and its must-be-0 fields, and gives its operands back. -/
theorem encodedCommandsDecodeBack : Obligations.EncodedCommandsDecodeBack := by
  unfold Obligations.EncodedCommandsDecodeBack
  intro i h
  exact decode_eq_ok_iff.mpr ⟨opField_encode i, reservedZero_encode i, operandsFrom_encode h⟩

theorem encode_of_decode (h : decode w = .ok i) : encode i = w := by
  obtain ⟨hop, hz, hi⟩ := decode_eq_ok_iff.mp h
  rw [← hi]
  exact encode_operandsFrom hop hz

/-- Settles O2: the operands are fields of the word, so they fit, and with the opcode and the zeros they are
the whole word. -/
theorem decodedWordsAreEncodings : Obligations.DecodedWordsAreEncodings := by
  unfold Obligations.DecodedWordsAreEncodings
  intro w i h
  obtain ⟨_, _, hi⟩ := decode_eq_ok_iff.mp h
  exact ⟨hi ▸ wellFormed_operandsFrom i w, encode_of_decode h⟩

/-! ### The mask table -/

theorem append_eq_append_iff {m n : Nat} {a c : BitVec m} {b d : BitVec n} :
    a ++ b = c ++ d ↔ a = c ∧ b = d := by
  constructor
  · intro h
    exact ⟨by simpa [BitVec.extractLsb'_append_eq_left] using congrArg (·.extractLsb' n m) h,
      by simpa [BitVec.extractLsb'_append_eq_right] using congrArg (·.extractLsb' 0 n) h⟩
  · rintro ⟨rfl, rfl⟩
    rfl

/-- A mask acts field by field. -/
theorem append_and_append_eq_iff {m n : Nat} {a k c : BitVec m} {b l d : BitVec n} :
    (a ++ b) &&& (k ++ l) = c ++ d ↔ a &&& k = c ∧ b &&& l = d := by
  rw [BitVec.and_append, append_eq_append_iff]

/-- Two neighbouring slices of a word are one. -/
theorem slice_append_slice (w : CmdWord) (lo n m : Nat) :
    w.extractLsb' (lo + n) m ++ w.extractLsb' lo n = w.extractLsb' lo (m + n) :=
  BitVec.extractLsb'_append_extractLsb'_eq_extractLsb' rfl

/-- A word's masked bits match the table exactly when it has the opcode and 0 in the must-be-0 fields
(30_encoding.md R62): the mask is 1 on just these fields. -/
theorem and_mask_eq_pattern_iff (w : CmdWord) (i : Instr) :
    w &&& i.mask = i.pattern ↔ opField w = i.opcode ∧ i.ReservedZero w := by
  cases i with
  | writePixel =>
    have hw : opField w ++ w.extractLsb' 0 56 = w :=
      (slice_append_slice w 0 56 8).trans BitVec.extractLsb'_eq_self
    have hmask : (opField w ++ w.extractLsb' 0 56) &&& (BitVec.allOnes 8 ++ 0#56) = 0x01#8 ++ 0#56 ↔
        opField w = 0x01#8 ∧ True := by
      simp only [append_and_append_eq_iff, BitVec.and_allOnes, BitVec.and_zero]
    rw [hw] at hmask
    exact hmask
  | fill =>
    have hw : opField w ++ w.extractLsb' 24 32 ++ colorField w = w := by
      rw [opField, slice_append_slice w 24 32 8]
      exact (slice_append_slice w 0 24 40).trans BitVec.extractLsb'_eq_self
    have hmask : (opField w ++ w.extractLsb' 24 32 ++ colorField w) &&&
        (BitVec.allOnes 8 ++ BitVec.allOnes 32 ++ 0#24) = 0x02#8 ++ 0#32 ++ 0#24 ↔
        opField w = 0x02#8 ∧ w.extractLsb' 24 32 = 0#32 := by
      simp only [append_and_append_eq_iff, BitVec.and_allOnes, BitVec.and_zero, and_true]
    rw [hw] at hmask
    exact hmask
  | readFb =>
    have hw : opField w ++ w.extractLsb' 32 24 ++ addrField w = w := by
      rw [opField, slice_append_slice w 32 24 8]
      exact (slice_append_slice w 0 32 32).trans BitVec.extractLsb'_eq_self
    have hmask : (opField w ++ w.extractLsb' 32 24 ++ addrField w) &&&
        (BitVec.allOnes 8 ++ BitVec.allOnes 24 ++ 0#32) = 0x03#8 ++ 0#24 ++ 0#32 ↔
        opField w = 0x03#8 ∧ w.extractLsb' 32 24 = 0#24 := by
      simp only [append_and_append_eq_iff, BitVec.and_allOnes, BitVec.and_zero, and_true]
    rw [hw] at hmask
    exact hmask
  | convertBand =>
    have hw : opField w ++ xField w ++ yField w ++ colorField w = w := by
      rw [opField, xField, slice_append_slice w 40 16 8, yField,
        slice_append_slice w 24 16 24]
      exact (slice_append_slice w 0 24 40).trans BitVec.extractLsb'_eq_self
    have hmask : (opField w ++ xField w ++ yField w ++ colorField w) &&&
        (BitVec.allOnes 8 ++ BitVec.allOnes 16 ++ 0#16 ++ BitVec.allOnes 24) =
        0x10#8 ++ 0#16 ++ 0#16 ++ 0#24 ↔
        opField w = 0x10#8 ∧ xField w = 0#16 ∧ colorField w = 0#24 := by
      simp only [append_and_append_eq_iff, BitVec.and_allOnes, BitVec.and_zero, and_true, and_assoc]
    rw [hw] at hmask
    exact hmask
  | refresh =>
    have hw : opField w ++ w.extractLsb' 0 56 = w :=
      (slice_append_slice w 0 56 8).trans BitVec.extractLsb'_eq_self
    have hmask : (opField w ++ w.extractLsb' 0 56) &&& (BitVec.allOnes 8 ++ BitVec.allOnes 56) =
        0x20#8 ++ 0#56 ↔ opField w = 0x20#8 ∧ w.extractLsb' 0 56 = 0#56 := by
      simp only [append_and_append_eq_iff, BitVec.and_allOnes]
    rw [hw] at hmask
    exact hmask

/-- Settles O3: both columns say what `decode_eq_ok_iff` says of the opcode and the must-be-0 fields. -/
theorem decodeFollowsTheMaskTable : Obligations.DecodeFollowsTheMaskTable := by
  unfold Obligations.DecodeFollowsTheMaskTable
  constructor
  · intro w i h
    obtain ⟨hop, hz, _⟩ := decode_eq_ok_iff.mp h
    exact (and_mask_eq_pattern_iff w i).mpr ⟨hop, hz⟩
  · intro w j h
    obtain ⟨hop, hz⟩ := (and_mask_eq_pattern_iff w j).mp h
    exact ⟨j.operandsFrom w, decode_of_reservedZero hop hz, j.opcode_operandsFrom w⟩

/-- Settles O4: the decoder answers an error on a non-zero must-be-0 field, and a word that decodes is the
encoding of its command. -/
theorem nonZeroReservedFieldIsIllegal : Obligations.NonZeroReservedFieldIsIllegal := by
  unfold Obligations.NonZeroReservedFieldIsIllegal
  intro w
  refine ⟨?_, ?_, ?_, ?_, ?_⟩
  · intro hop hz
    exact ⟨_, decode_of_not_reservedZero (i := .fill 0#24) hop hz⟩
  · intro hop hz
    exact ⟨_, decode_of_not_reservedZero (i := .readFb 0) hop hz⟩
  · intro hop hz
    exact ⟨_, decode_of_not_reservedZero (i := .convertBand 0) hop (not_and_or.mpr hz)⟩
  · intro hop hz
    exact ⟨_, decode_of_not_reservedZero (i := .refresh) hop hz⟩
  · intro v i hw hv
    exact (encode_of_decode hv).symm.trans (encode_of_decode hw)

/-- Settles O5: the decoder's last answer. -/
theorem otherOpcodesAreIllegal : Obligations.OtherOpcodesAreIllegal := by
  unfold Obligations.OtherOpcodesAreIllegal
  intro w h
  exact ⟨_, decode_of_other_opcode h⟩

/-- Settles O6: the operands are the fields, whose values are the slices of the word as a number. -/
theorem operandsAreUnsignedFields : Obligations.OperandsAreUnsignedFields := by
  unfold Obligations.OperandsAreUnsignedFields
  intro w
  refine ⟨?_, ?_, ?_, ?_⟩
  · intro x y c h
    obtain ⟨_, _, hi⟩ := decode_eq_ok_iff.mp h
    obtain ⟨rfl, rfl, rfl⟩ := Instr.writePixel.inj hi
    exact ⟨xField_toNat w, yField_toNat w, colorField_toNat w⟩
  · intro c h
    obtain ⟨_, _, hi⟩ := decode_eq_ok_iff.mp h
    obtain rfl := Instr.fill.inj hi
    exact colorField_toNat w
  · intro a h
    obtain ⟨_, _, hi⟩ := decode_eq_ok_iff.mp h
    obtain rfl := Instr.readFb.inj hi
    exact addrField_toNat w
  · intro r h
    obtain ⟨_, _, hi⟩ := decode_eq_ok_iff.mp h
    obtain rfl := Instr.convertBand.inj hi
    exact yField_toNat w

/-- Settles O7: the decoder run on the eight words. -/
theorem sampleWordsDecode : Obligations.SampleWordsDecode := by
  unfold Obligations.SampleWordsDecode
  decide

end Sys2Proof
end

section
/-! PROOF. The assembler takes an operand whole or not at all (30_encoding.md R73). -/

namespace Sys2Proof.Machine

/-- A command whose operands all fit is taken as it stands, any other is an error. -/
theorem checkOperands_eq (i : Instr) (fits : Bool) :
    checkOperands i fits =
      if i.wellFormed = true ∧ fits = true then .ok i else .error .operandTooWide := by
  simp only [checkOperands, Bool.and_eq_true]

theorem assemble_writePixel (x y c : Nat) : assemble "WRITE_PIXEL".toList [x, y, c] =
    checkOperands (.writePixel x y (colorOperand c)) (colorFits c) := rfl

theorem assemble_fill (c : Nat) :
    assemble "FILL".toList [c] = checkOperands (.fill (colorOperand c)) (colorFits c) := rfl

theorem assemble_readFb (a : Nat) :
    assemble "READ_FB".toList [a] = checkOperands (.readFb a) true := rfl

theorem assemble_convertBand (r : Nat) :
    assemble "CONVERT_BAND".toList [r] = checkOperands (.convertBand r) true := rfl

/-- Settles O8: each mnemonic leads to the check of its operands, whose conditions are those of the fields. -/
theorem assemblerNeverTruncates : Obligations.AssemblerNeverTruncates := by
  unfold Obligations.AssemblerNeverTruncates
  refine ⟨?_, ?_, ?_, ?_, rfl⟩
  · intro x y c
    rw [assemble_writePixel, checkOperands_eq]
    simp only [Instr.wellFormed, colorFits, colorOperand, Bool.and_eq_true, decide_eq_true_eq, and_assoc]
  · intro c
    rw [assemble_fill, checkOperands_eq]
    simp only [Instr.wellFormed, colorFits, colorOperand, decide_eq_true_eq, true_and]
  · intro a
    rw [assemble_readFb, checkOperands_eq]
    simp only [Instr.wellFormed, decide_eq_true_eq, and_true]
  · intro r
    rw [assemble_convertBand, checkOperands_eq]
    simp only [Instr.wellFormed, decide_eq_true_eq, and_true]

end Sys2Proof.Machine
end

section
/-! PROOF. The block never stops (42_transfer_scheduler.md R124, 70_reset_and_hazards.md R175, R180): in every
state that meets the invariant a step answers a next state, which meets it again. -/

namespace Sys2Proof.Machine

variable {s : State}

/-- A command word has a next state wherever STAGE[sel] is not in flight. -/
theorem exists_runWord_next (w : CmdWord) (hfree : s.inflight.get s.sel = false) :
    ∃ t, runWord w s = .next t := by
  unfold runWord
  split
  · rename_i i _
    cases i with
    | writePixel x y c =>
      by_cases hin : PixelInRange s.params x y
      · exact ⟨_, execWritePixel_in hin c⟩
      · exact ⟨_, execWritePixel_out hin c⟩
    | fill c => exact ⟨_, rfl⟩
    | readFb a =>
      by_cases hin : AddrInRange s.params a
      · exact ⟨_, execReadFb_in hin⟩
      · exact ⟨_, execReadFb_out hin⟩
    | convertBand r =>
      by_cases hin : BandInRange s.params r
      · exact ⟨_, execConvertBand_in hin hfree⟩
      · exact ⟨_, execConvertBand_out hin⟩
    | refresh => exact ⟨_, rfl⟩
  · exact ⟨_, rfl⟩

/-- The oldest pending band lies above `row`. -/
theorem PendingBands.head_row {p : Params} {row : Nat} {e : BandWriteReq} {rest : List BandWriteReq}
    (h : PendingBands p row (e :: rest)) : e.row.toNat + p.bandHeight ≤ row := by
  match rest, h with
  | [], ⟨hrow, _, _⟩ => exact hrow.le
  | [b], ⟨hab, hrow, _⟩ => omega

/-- The producer has a step in CONVERT with its slot free. -/
theorem exists_producerStep_next (h : Inv s) (hen : producerEnabled s = true) :
    ∃ t, producerStep s = .next t := by
  obtain ⟨hphase, hfree⟩ := (producerEnabled_iff s).mp hen
  exact ⟨_, producerStep_eq hfree (h.loopRow (.inl hphase))⟩

/-- The consumer has a step whenever a band-write is pending: its band lies in the frame. -/
theorem exists_consumerStep_next (h : Inv s) {e : BandWriteReq} {rest : List BandWriteReq}
    (hp : s.pending = e :: rest) : ∃ t, consumerStep e rest s = .next t := by
  have hrow : e.row.toNat + s.params.bandHeight ≤ s.row.toNat := by
    have hbands := h.pendingBands
    rw [hp] at hbands
    exact hbands.head_row
  exact ⟨_, consumerStep_eq (hrow.trans h.rowInFrame)⟩

/-- OVERLAP = 1: with nothing pending the producer's slot is free or the block completes; otherwise the
consumer has a step, or the block waits on the backend. -/
theorem exists_overlapStep_next (h : Inv s) (hphase : s.phase = .convert ∨ s.phase = .drain) (turn : Turn) :
    ∃ t, overlapStep turn s = .next t := by
  have hproduce := exists_producerStep_next h
  cases hp : s.pending with
  | nil =>
    rw [overlapStep_nil hp]
    obtain hphase | hphase := hphase
    · have hen : producerEnabled s = true :=
        (producerEnabled_iff s).mpr ⟨hphase, h.common.quiet hp s.sel⟩
      rw [if_pos hen]
      exact hproduce hen
    · have hen : ¬ producerEnabled s = true := by simp [producerEnabled_iff, hphase]
      rw [if_neg hen, if_pos hphase]
      exact ⟨_, rfl⟩
  | cons e rest =>
    have hconsume := exists_consumerStep_next h hp
    rw [overlapStep_cons hp]
    split
    · split
      · exact hproduce ‹_›
      · exact ⟨_, rfl⟩
    · split
      · exact hconsume
      · split
        · exact hproduce ‹_›
        · exact hconsume

/-- The scheduler always has a step: the invariant rules out the phases of the other variant. -/
theorem exists_refreshStep_next (h : Inv s) (turn : Turn) : ∃ t, refreshStep turn s = .next t := by
  cases hover : s.params.overlap with
  | false =>
    obtain ⟨_, hquiet, hdrain⟩ := h.sequentialQuiet hover
    cases hphase : s.phase with
    | idle => exact ⟨s, by rw [refreshStep, hphase]⟩
    | convert =>
      rw [refreshStep_convert hphase hover]
      exact ⟨_, convertStep_eq (hquiet s.sel) (h.loopRow (.inl hphase))⟩
    | write =>
      rw [refreshStep_write hphase hover]
      split
      · exact ⟨_, rfl⟩
      · exact ⟨_, writeStep_eq (h.loopRow (.inr hphase))⟩
    | drain => exact absurd hphase hdrain
  | true =>
    cases hphase : s.phase with
    | idle => exact ⟨s, by rw [refreshStep, hphase]⟩
    | convert =>
      rw [refreshStep_overlap (.inl hphase) hover]
      exact exists_overlapStep_next h (.inl hphase) turn
    | write => exact absurd hphase (h.overlapPhase hover)
    | drain =>
      rw [refreshStep_overlap (.inr hphase) hover]
      exact exists_overlapStep_next h (.inr hphase) turn

theorem exists_step_next (h : Inv s) : ∃ t, step s = .next t := by
  by_cases hr : ∀ n, s.turns.head? ≠ some (.reset n)
  · by_cases hi : s.phase = .idle
    · cases hc : s.cmdIn with
      | nil =>
        rw [step_run h.legal hr, if_pos hi, idleStep, takeCommand, popTurn_cmdIn, hc]
        exact ⟨_, rfl⟩
      | cons w ws =>
        rw [step_idle_cons h.legal hi hc hr]
        exact exists_runWord_next w ((h.idleQuiet hi).2 s.sel)
    · rw [step_run h.legal hr, if_neg hi]
      exact exists_refreshStep_next (h.withPorts s.cmdIn s.turns.tail) _
  · push Not at hr
    obtain ⟨n, hn⟩ := hr
    exact ⟨_, step_reset h.legal hn⟩

/-- Settles O57, by induction on the number of steps: the first answers a next state, which meets the
invariant. -/
theorem theBlockNeverStops : Obligations.TheBlockNeverStops := by
  unfold Obligations.TheBlockNeverStops Safe
  intro s h n
  induction n generalizing s with
  | zero => exact ⟨s, rfl⟩
  | succ n ih =>
    obtain ⟨u, hstep⟩ := exists_step_next h
    rw [core_run_next hstep]
    exact ih u (step_inv h hstep)

end Sys2Proof.Machine
end

section
/-! PROOF. Responses and the account of command words (30_encoding.md R66 to R68), move by move: every move of
a command or of a REFRESH either responds once and returns to IDLE, or responds nothing and leaves a REFRESH
in progress. -/

namespace Sys2Proof.Machine

variable {s t : State}

/-! ### What a move responds -/

/-- What became of the command of a move from `s` to `t`: one response and IDLE, or none and a REFRESH in
progress. -/
inductive Answers (s t : State) : Prop
  | responded (st : Status) (data : Byte) (hphase : t.phase = .idle)
      (hrsp : t.rspOut = s.rspOut ++ [responseWord st data])
  | inProgress (hphase : t.phase ≠ .idle) (hrsp : t.rspOut = s.rspOut)

/-- An operation without a response, then one that answers. -/
theorem Answers.of_rspOut_eq {u : State} (h : Answers t u) (hrsp : t.rspOut = s.rspOut) : Answers s u := by
  cases h with
  | responded st data hphase h => exact .responded st data hphase (h.trans (by rw [hrsp]))
  | inProgress hphase h => exact .inProgress hphase (h.trans hrsp)

theorem answers_respond (st : Status) (data : Byte) (s : State) : Answers s (respond st data s) :=
  .responded st data rfl rfl

theorem answers_loopTest (s : State) : Answers s (loopTest s) := by
  unfold loopTest
  split
  · exact .inProgress (by simp) rfl
  · exact answers_respond _ _ s

theorem answers_drainTest (hi : s.phase ≠ .idle) : Answers s (drainTest s) := by
  unfold drainTest
  split
  · exact .inProgress (by simp) rfl
  · exact .inProgress hi rfl

theorem CommandMove.answers (h : CommandMove s t) : Answers s t := by
  cases h with
  | raised e => exact answers_respond e _ s
  | read a => exact answers_respond _ _ s
  | drawn m => exact (answers_respond _ _ { s with fb := m }).of_rspOut_eq rfl
  | converted r => exact (answers_respond _ _ _).of_rspOut_eq (convertRows_rspOut r s.sel s)
  | accepted => exact .inProgress (by simp) rfl

theorem RefreshMove.answers (h : RefreshMove s t) (hi : s.phase ≠ .idle) : Answers s t := by
  cases h with
  | convert => exact .inProgress (by simp) (convertRows_rspOut s.row.toNat s.sel s)
  | write => exact (answers_loopTest _).of_rspOut_eq rfl
  | wait => exact .inProgress hi rfl
  | produce _ hphase =>
    refine (answers_drainTest ?_).of_rspOut_eq (convertRows_rspOut s.row.toNat s.sel s)
    simp [afterProduce, hphase]
  | consume e rest => exact .inProgress hi rfl
  | complete => exact answers_respond _ _ s

/-! ### The status codes -/

theorem status_of_responseWord (st : Status) (data : Byte) :
    (responseWord st data).extractLsb' 8 8 = statusCode st := by
  unfold responseWord
  exact BitVec.extractLsb'_append_eq_left

theorem statusCode_mem (st : Status) :
    statusCode st ∈ [0x00#8, 0x01#8, 0x02#8, 0x03#8, 0x04#8] := by cases st <;> decide

theorem Answers.rspOut_cases (h : Answers s t) :
    t.rspOut = s.rspOut ∨ ∃ st data, t.rspOut = s.rspOut ++ [responseWord st data] := by
  cases h with
  | responded st data _ hrsp => exact .inr ⟨st, data, hrsp⟩
  | inProgress _ hrsp => exact .inl hrsp

/-- Any step responds nothing or one response word. -/
theorem step_rspOut (h : step s = .next t) :
    t.rspOut = s.rspOut ∨ ∃ st data, t.rspOut = s.rspOut ++ [responseWord st data] := by
  obtain ⟨_, ⟨n, _, rfl⟩ | ⟨_, _, _, rfl⟩ | ⟨w, ws, _, _, _, hrun⟩ | ⟨hi, _, hrefresh⟩⟩ := step_next h
  · exact .inl rfl
  · exact .inl rfl
  · exact (runWord_commandMove hrun).answers.rspOut_cases
  · exact ((refreshStep_move hrefresh hi).answers hi).rspOut_cases

/-- Settles O17: the word appended is a response word, whose high byte is a status code. -/
theorem responsesCarryOneOfFiveCodes : Obligations.ResponsesCarryOneOfFiveCodes := by
  unfold Obligations.ResponsesCarryOneOfFiveCodes
  intro s t h
  obtain hrsp | ⟨st, data, hrsp⟩ := step_rspOut h
  · exact .inl hrsp
  · exact .inr ⟨_, hrsp, status_of_responseWord st data ▸ statusCode_mem st⟩

/-! ### One response per command -/

/-- Every command but REFRESH is back in IDLE after its one step. -/
theorem exec_phase_idle {i : Instr} (hi : i ≠ .refresh) (h : exec i s = .next t) : t.phase = .idle := by
  cases i with
  | writePixel x y c =>
    change execWritePixel x y c s = .next t at h
    by_cases hin : PixelInRange s.params x y
    · rw [execWritePixel_in hin] at h
      cases h
      rfl
    · rw [execWritePixel_out hin] at h
      cases h
      rfl
  | fill c =>
    cases h
    rfl
  | readFb a =>
    change execReadFb a s = .next t at h
    by_cases hin : AddrInRange s.params a
    · rw [execReadFb_in hin] at h
      cases h
      rfl
    · rw [execReadFb_out hin] at h
      cases h
      rfl
  | convertBand r => obtain ⟨_, _, rfl⟩ | ⟨_, rfl⟩ := execConvertBand_next h <;> rfl
  | refresh => exact absurd rfl hi

/-- Settles O52: a command answers, and whether it is back in IDLE says which way. -/
theorem oneResponsePerCommand : Obligations.OneResponsePerCommand := by
  unfold Obligations.OneResponsePerCommand
  intro s t i h
  constructor
  · intro hi
    have hidle := exec_phase_idle hi h
    cases (exec_commandMove h).answers with
    | responded st data _ hrsp => exact ⟨hidle, _, hrsp⟩
    | inProgress hphase _ => exact absurd hidle hphase
  · rintro rfl
    cases h
    exact ⟨by simp, rfl⟩

/-! ### The account of command words -/

/-- The responses given, the REFRESH in progress and the words not yet taken, as one number. -/
def account (s : State) : Nat :=
  s.rspOut.length + (if s.phase = .idle then 0 else 1) + s.cmdIn.length

/-- A move accounts for one command: by its response, or by the REFRESH in progress. -/
theorem Answers.account_eq (h : Answers s t) :
    account t = s.rspOut.length + 1 + t.cmdIn.length := by
  unfold account
  cases h with
  | responded st data hphase hrsp => simp [hphase, hrsp]
  | inProgress hphase hrsp => simp [hphase, hrsp]

theorem CommandMove.cmdIn_eq (h : CommandMove s t) : t.cmdIn = s.cmdIn := by
  cases h with
  | converted r => exact convertRows_cmdIn r s.sel s
  | _ => rfl

/-- What a step without a reset does to the command port: it takes at most its first word, and keeps the
account. -/
theorem step_account (hr : ∀ n, s.turns.head? ≠ some (.reset n)) (h : step s = .next t) :
    t.cmdIn <:+ s.cmdIn ∧ s.cmdIn.length ≤ t.cmdIn.length + 1 ∧ account t = account s := by
  obtain ⟨_, ⟨n, hn, _⟩ | ⟨_, _, _, rfl⟩ | ⟨w, ws, hi, hc, _, hrun⟩ | ⟨hi, _, hrefresh⟩⟩ := step_next h
  · exact absurd hn (hr n)
  · exact ⟨List.suffix_rfl, Nat.le_succ _, rfl⟩
  · have hmove := runWord_commandMove hrun
    have hcmd : t.cmdIn = ws := hmove.cmdIn_eq
    refine ⟨?_, ?_, ?_⟩
    · rw [hcmd, hc]
      exact List.suffix_cons w ws
    · rw [hcmd, hc, List.length_cons]
    · rw [hmove.answers.account_eq, account, if_pos hi, hcmd, hc, List.length_cons]
      exact Nat.add_right_comm s.rspOut.length 1 ws.length
  · have hmove := refreshStep_move hrefresh hi
    have hcmd : t.cmdIn = s.cmdIn := hmove.keepsStore.cmdIn
    refine ⟨?_, ?_, ?_⟩
    · rw [hcmd]
    · rw [hcmd]
      exact Nat.le_succ _
    · rw [(hmove.answers hi).account_eq, account, if_neg hi, hcmd]
      rfl

/-- Settles O60, by the cases of `step_next`: a word taken is answered or becomes the REFRESH in progress, and
a REFRESH in progress stays so or is answered. -/
theorem everyStepAccountsForItsWords : Obligations.EveryStepAccountsForItsWords := by
  unfold Obligations.EveryStepAccountsForItsWords
  intro s t _ hr h
  exact step_account hr h

end Sys2Proof.Machine
end

section
/-! PROOF. What the block emits (30_encoding.md R70, R72): a step appends nothing or one whole frame, and only a
reset cuts a frame short. -/

namespace Sys2Proof.Machine

variable {s t : State}

/-! ### The symbols of a frame -/

/-- The bytes of a slot on the wire, in order (20_memory.md R45). -/
def slotBytes (s : State) (slot : Bool) : List Byte :=
  (List.range s.params.bandPixels).flatMap fun p => [lo8 (stageRead s slot p), hi8 (stageRead s slot p)]

/-- After its header a frame has data symbols only. -/
theorem frame_eq (s : State) (r : Half) (slot : Bool) :
    frame s r slot = frameHeader s.params r ++ (slotBytes s slot).map dataSymbol := by
  rw [frame, slotSymbols, slotBytes, List.map_flatMap]
  rfl

theorem slotBytes_length (s : State) (slot : Bool) : (slotBytes s slot).length = s.params.bandBytes :=
  flatMap_range_length_two _ (fun _ => rfl) _

theorem filter_command_frame (s : State) (r : Half) (slot : Bool) :
    (frame s r slot).filter (fun x => !x.dc) =
      [cmdSymbol s.params.cmdColAddr, cmdSymbol s.params.cmdPageAddr, cmdSymbol s.params.cmdMemWrite] := by
  rw [frame_eq, List.filter_append, List.filter_map]
  simp [frameHeader, addrSymbols, cmdSymbol, dataSymbol, Function.comp_def]

theorem countP_data_frame (s : State) (r : Half) (slot : Bool) :
    (frame s r slot).countP (fun x => x.dc) = 8 + s.params.bandBytes := by
  rw [frame_eq, List.countP_append, List.countP_map, ← slotBytes_length s slot]
  simp [frameHeader, addrSymbols, cmdSymbol, dataSymbol, Function.comp_def]

/-! ### What a step emits -/

theorem CommandMove.panelOut_eq (h : CommandMove s t) : t.panelOut = s.panelOut := by
  cases h with
  | converted r => exact convertRows_panelOut r s.sel s
  | _ => rfl

theorem loopTest_panelOut (s : State) : (loopTest s).panelOut = s.panelOut := by
  unfold loopTest
  split <;> rfl

theorem drainTest_panelOut (s : State) : (drainTest s).panelOut = s.panelOut := by
  unfold drainTest
  split <;> rfl

/-- A move of a REFRESH emits nothing or one whole frame. -/
theorem RefreshMove.panelOut_cases (h : RefreshMove s t) :
    t.panelOut = s.panelOut ∨ ∃ r slot, t.panelOut = s.panelOut ++ frame s r slot := by
  cases h with
  | convert => exact .inl (convertRows_panelOut s.row.toNat s.sel s)
  | write => exact .inr ⟨s.row, s.sel, loopTest_panelOut _⟩
  | wait => exact .inl rfl
  | produce =>
    exact .inl ((drainTest_panelOut _).trans (convertRows_panelOut s.row.toNat s.sel s))
  | consume e rest => exact .inr ⟨e.row, e.slot, rfl⟩
  | complete => exact .inl rfl

/-- A step without a reset emits nothing or one whole frame. -/
theorem step_panelOut (hr : ∀ n, s.turns.head? ≠ some (.reset n)) (h : step s = .next t) :
    t.panelOut = s.panelOut ∨ ∃ r slot, t.panelOut = s.panelOut ++ frame s r slot := by
  obtain ⟨_, ⟨n, hn, _⟩ | ⟨_, _, _, rfl⟩ | ⟨w, ws, _, _, _, hrun⟩ | ⟨hi, _, hrefresh⟩⟩ := step_next h
  · exact absurd hn (hr n)
  · exact .inl rfl
  · exact .inl (runWord_commandMove hrun).panelOut_eq
  · exact (refreshStep_move hrefresh hi).panelOut_cases

/-- A reset emits nothing or the first symbols of a frame (70_reset_and_hazards.md R170). -/
theorem resetEvent_panelOut_cases (n : Nat) (s : State) :
    (resetEvent n s).panelOut = s.panelOut ∨
    ∃ r slot, (resetEvent n s).panelOut = s.panelOut ++ (frame s r slot).take n := by
  rw [resetEvent_panelOut]
  unfold nextFrame
  split
  · split
    · exact .inr ⟨_, _, rfl⟩
    · exact .inl (by simp)
  · split
    · exact .inl (by simp)
    · exact .inr ⟨_, _, rfl⟩

/-- Settles O37: the symbols of a frame, then the steps with and without a reset. -/
theorem onlyFramesAreEmitted : Obligations.OnlyFramesAreEmitted := by
  unfold Obligations.OnlyFramesAreEmitted
  constructor
  · intro s r slot
    have hfilter := filter_command_frame s r slot
    refine ⟨?_, countP_data_frame s r slot, hfilter⟩
    rw [List.countP_eq_length_filter, hfilter]
    rfl
  · intro s t h
    by_cases hr : ∀ n, s.turns.head? ≠ some (.reset n)
    · obtain hsame | hframe := step_panelOut hr h
      · exact .inl hsame
      · exact .inr (.inl hframe)
    · push Not at hr
      obtain ⟨n, hn⟩ := hr
      obtain ⟨hl, _⟩ := step_next h
      rw [step_reset hl hn] at h
      cases h
      obtain hnone | ⟨r, slot, hcut⟩ := resetEvent_panelOut_cases n (popTurn s)
      · exact .inl hnone
      · exact .inr (.inr ⟨n, r, slot, hn, hcut⟩)

end Sys2Proof.Machine
end

section
/-! PROOF. A run from reset without resets (70_reset_and_hazards.md R178): the account of the words presented
and the frames emitted, kept by every step. -/

namespace Sys2Proof.Machine

variable {s t : State}

/-! ### The turns left over -/

@[simp] theorem convertRows_turns (r : Nat) (slot : Bool) (s : State) :
    (convertRows r slot s).turns = s.turns := by rw [convertRows_eq]

theorem loopTest_turns (s : State) : (loopTest s).turns = s.turns := by
  unfold loopTest
  split <;> rfl

theorem drainTest_turns (s : State) : (drainTest s).turns = s.turns := by
  unfold drainTest
  split <;> rfl

theorem CommandMove.turns_eq (h : CommandMove s t) : t.turns = s.turns := by
  cases h with
  | converted r => exact convertRows_turns r s.sel s
  | _ => rfl

theorem RefreshMove.turns_eq (h : RefreshMove s t) : t.turns = s.turns := by
  cases h with
  | convert => exact convertRows_turns s.row.toNat s.sel s
  | write => exact loopTest_turns _
  | produce => exact (drainTest_turns _).trans (convertRows_turns s.row.toNat s.sel s)
  | _ => rfl

/-- A step takes one turn. -/
theorem step_turns (h : step s = .next t) : t.turns = s.turns.tail := by
  obtain ⟨_, ⟨n, _, rfl⟩ | ⟨_, _, _, rfl⟩ | ⟨w, ws, _, _, _, hrun⟩ | ⟨hi, _, hrefresh⟩⟩ := step_next h
  · rfl
  · rfl
  · exact (runWord_commandMove hrun).turns_eq
  · exact (refreshStep_move hrefresh hi).turns_eq

theorem NoReset.head_ne (h : NoReset s) (n : Nat) : s.turns.head? ≠ some (.reset n) :=
  fun hn => h n (List.mem_of_head? hn)

theorem step_noReset (h : NoReset s) (hstep : step s = .next t) : NoReset t := by
  intro n hn
  rw [step_turns hstep] at hn
  exact h n (List.mem_of_mem_tail hn)

/-! ### What every step of such a run keeps -/

/-- A stream of whole frames, each the header of a row and BAND_BYTES data symbols (30_encoding.md R72). -/
def WholeFrames (p : Params) (out : List Symbol) : Prop :=
  ∃ frames : List (Half × List Byte), (∀ f ∈ frames, f.2.length = 2 * p.bandPixels) ∧
    out = frames.flatMap fun f => frameHeader p f.1 ++ f.2.map dataSymbol

theorem wholeFrames_nil (p : Params) : WholeFrames p [] := ⟨[], by simp, rfl⟩

theorem WholeFrames.append_frame {out : List Symbol} (h : WholeFrames s.params out) (r : Half)
    (slot : Bool) : WholeFrames s.params (out ++ frame s r slot) := by
  obtain ⟨frames, hlen, rfl⟩ := h
  refine ⟨frames ++ [(r, slotBytes s slot)], ?_, ?_⟩
  · intro f hf
    obtain hf | hf := List.mem_append.mp hf
    · exact hlen f hf
    · obtain rfl := List.mem_singleton.mp hf
      exact slotBytes_length s slot
  · rw [List.flatMap_append, List.flatMap_singleton, frame_eq]

/-- What a run without resets keeps, for the words that were presented. -/
structure RunInv (words : List CmdWord) (s : State) : Prop where
  noReset : NoReset s
  port : s.cmdIn <:+ words
  account : account s = words.length
  frames : WholeFrames s.params s.panelOut

theorem step_runInv {words : List CmdWord} (h : RunInv words s) (hstep : step s = .next t) :
    RunInv words t := by
  obtain ⟨hport, _, haccount⟩ := step_account h.noReset.head_ne hstep
  refine ⟨step_noReset h.noReset hstep, hport.trans h.port, haccount.trans h.account, ?_⟩
  rw [(step_grows hstep).params]
  obtain hsame | ⟨r, slot, hframe⟩ := step_panelOut h.noReset.head_ne hstep
  · rw [hsame]
    exact h.frames
  · rw [hframe]
    exact h.frames.append_frame r slot

/-- Settles O59: every step of the run keeps `RunInv`, and at its end the account is of responses alone and
the invariant has nothing pending or in flight. -/
theorem everyWordGetsOneResponse : Obligations.EveryWordGetsOneResponse := by
  unfold Obligations.EveryWordGetsOneResponse
  intro p words turns n t hl hturns hrun
  have hstart : RunInv words { State.resetWith p with cmdIn := words, turns := turns } :=
    ⟨hturns, List.suffix_rfl, Nat.zero_add _, wholeFrames_nil p⟩
  obtain ⟨_, hport, haccount, hframes⟩ := core_run_keeps (fun _ _ => step_runInv) hstart hrun
  obtain ⟨h, rfl⟩ := core_run_inv_params (inv_resetWith hl [] [] words turns 0) hrun
  refine ⟨hport, haccount, hframes, ?_⟩
  rintro ⟨hcmd, hidle⟩
  have hrsp : t.rspOut.length = words.length := by simpa [account, hcmd, hidle] using haccount
  exact ⟨hrsp, h.idleQuiet hidle⟩

end Sys2Proof.Machine
end

section
/-! PROOF. The Framebuffer Store (40_framebuffer_store.md R80 to R84): the colour a pixel holds after
WRITE_PIXEL and FILL, the bytes that stay, and what READ_FB answers. -/

namespace Sys2Proof.Machine

variable {s : State}

/-! ### The colour of a pixel -/

/-- The three bytes of FB from `a` on are this colour, red first (20_memory.md R43). -/
def HoldsColor (s : State) (a : Nat) (c : Color) : Prop :=
  fbRead s a = red c ∧ fbRead s (a + 1) = green c ∧ fbRead s (a + 2) = blue c

theorem holdsColor_fbWritePixel (s : State) (a : Nat) (c : Color) :
    HoldsColor (fbWritePixel s a c) a c := by
  simp [HoldsColor, fbRead_fbWritePixel]

theorem fbRead_fbWritePixel_other {a b : Nat} (h : b < a ∨ a + 2 < b) (c : Color) :
    fbRead (fbWritePixel s a c) b = fbRead s b := by
  rw [fbRead_fbWritePixel, if_neg (by omega), if_neg (by omega), if_neg (by omega)]

theorem holdsColor_fbFill {x y : Nat} (hin : PixelInRange s.params x y) (c : Color) :
    HoldsColor (fbFill s c) (s.params.pixOff x y) c := by
  have hlt := pixOff_lt_fbBytes hin
  have hmod : s.params.pixOff x y % 3 = 0 := Nat.mul_mod_left _ 3
  rw [Params.fbBytes, Nat.mul_comm _ 3] at hlt
  refine ⟨?_, ?_, ?_⟩ <;> rw [fbRead_fbFill, if_pos (by omega)]
  · rw [if_pos hmod]
  · rw [if_neg (by omega), if_pos (by omega)]
  · rw [if_neg (by omega), if_neg (by omega)]

theorem fbRead_fbFill_above {a : Nat} (h : s.params.fbBytes ≤ a) (c : Color) :
    fbRead (fbFill s c) a = fbRead s a := by
  rw [Params.fbBytes, Nat.mul_comm _ 3] at h
  rw [fbRead_fbFill, if_neg (by omega)]

/-- Two pixels of the frame have no byte in common: the column and the row are the remainder and the quotient
of the pixel's number by WIDTH (20_memory.md R41). -/
theorem pixOff_disjoint {p : Params} {x y x' y' : Nat} (hx : x < p.width) (hx' : x' < p.width)
    (hne : (x', y') ≠ (x, y)) :
    p.pixOff x' y' + 2 < p.pixOff x y ∨ p.pixOff x y + 2 < p.pixOff x' y' := by
  have hnumber : y' * p.width + x' ≠ y * p.width + x := by
    intro heq
    have hrow := congrArg (· / p.width) heq
    have hcol := congrArg (· % p.width) heq
    simp only [Nat.mul_comm _ p.width, Nat.mul_add_div (Nat.zero_lt_of_lt hx), Nat.div_eq_of_lt hx,
      Nat.div_eq_of_lt hx', Nat.add_zero] at hrow
    simp only [Nat.mul_comm _ p.width, Nat.mul_add_mod, Nat.mod_eq_of_lt hx,
      Nat.mod_eq_of_lt hx'] at hcol
    exact hne (by rw [hrow, hcol])
  unfold Params.pixOff
  omega

/-! ### What the commands answer -/

theorem exec_writePixel_in {x y : Nat} (hin : PixelInRange s.params x y) (c : Color) :
    exec (.writePixel x y c) s =
      .next (respond .ok 0x00#8 (fbWritePixel s (s.params.pixOff x y) c)) := execWritePixel_in hin c

theorem exec_fill (c : Color) (s : State) :
    exec (.fill c) s = .next (respond .ok 0x00#8 (fbFill s c)) := rfl

theorem exec_readFb_in {a : Nat} (hin : AddrInRange s.params a) :
    exec (.readFb a) s = .next (respond .ok (fbRead s a) s) := execReadFb_in hin

/-- A command of the Framebuffer Store, in range or not, changes FB, gives a response and does nothing else. -/
theorem exec_storeCommand {i : Instr}
    (hi : (∃ x y c, i = .writePixel x y c) ∨ (∃ c, i = .fill c) ∨ (∃ a, i = .readFb a)) (s : State) :
    ∃ st d m, exec i s = .next (respond st d { s with fb := m }) := by
  obtain ⟨x, y, c, rfl⟩ | ⟨c, rfl⟩ | ⟨a, rfl⟩ := hi
  · by_cases hin : PixelInRange s.params x y
    · exact ⟨_, _, _, exec_writePixel_in hin c⟩
    · exact ⟨_, _, s.fb, execWritePixel_out hin c⟩
  · exact ⟨_, _, _, by rw [exec_fill, fbFill_eq]⟩
  · by_cases hin : AddrInRange s.params a
    · exact ⟨_, _, s.fb, exec_readFb_in hin⟩
    · exact ⟨_, _, s.fb, execReadFb_out hin⟩

/-! ### Reading back -/

theorem readsBack_of_fbRead {a : Nat} {b : Byte} (hin : AddrInRange s.params a) (h : fbRead s a = b) :
    ReadsBack s a b :=
  ⟨_, exec_readFb_in hin, by rw [h]; rfl⟩

theorem HoldsColor.pixelReadsBack {x y : Nat} {c : Color} (h : HoldsColor s (s.params.pixOff x y) c)
    (hin : PixelInRange s.params x y) : PixelReadsBack s x y c := by
  have hlt := pixOff_lt_fbBytes hin
  obtain ⟨hred, hgreen, hblue⟩ := h
  exact ⟨readsBack_of_fbRead (by omega) hred, readsBack_of_fbRead (by omega) hgreen,
    readsBack_of_fbRead hlt hblue⟩

theorem exists_writePixel_readsBack {x y : Nat} (hin : PixelInRange s.params x y) (c : Color) :
    ∃ t, exec (.writePixel x y c) s = .next t ∧ t.params = s.params ∧ PixelReadsBack t x y c ∧
      ∀ a, a < s.params.pixOff x y ∨ s.params.pixOff x y + 2 < a → fbRead t a = fbRead s a :=
  ⟨respond .ok 0x00#8 (fbWritePixel s (s.params.pixOff x y) c), exec_writePixel_in hin c, rfl,
    HoldsColor.pixelReadsBack (holdsColor_fbWritePixel s _ c) hin,
    fun _ ha => fbRead_fbWritePixel_other ha c⟩

/-! ### The statements -/

/-- Settles O18: the three bytes of the pixel are written and the response follows. -/
theorem writePixelStoresThreeBytes : Obligations.WritePixelStoresThreeBytes := by
  unfold Obligations.WritePixelStoresThreeBytes
  intro s x y c hx hy
  obtain ⟨hred, hgreen, hblue⟩ := holdsColor_fbWritePixel s (s.params.pixOff x y) c
  exact ⟨_, exec_writePixel_in ⟨hx, hy⟩ c, hred, hgreen, hblue,
    fun _ ha => fbRead_fbWritePixel_other ha c, rfl⟩

/-- Settles O20: every address below FB_BYTES has its byte of the colour by its remainder modulo 3. -/
theorem fillPaintsEveryPixel : Obligations.FillPaintsEveryPixel := by
  unfold Obligations.FillPaintsEveryPixel
  intro s c
  exact ⟨_, exec_fill c s, fun x y hx hy => holdsColor_fbFill ⟨hx, hy⟩ c,
    fun _ ha => fbRead_fbFill_above ha c, congrArg (respond .ok 0x00#8) (fbFill_eq s c)⟩

/-- Settles O21: an address in range is answered with status 0x00 and its byte. -/
theorem readFbAnswersTheByte : Obligations.ReadFbAnswersTheByte := by
  unfold Obligations.ReadFbAnswersTheByte
  intro s a ha
  exact exec_readFb_in ha

/-- Settles O23: the three commands change FB, `phase` and RSP_OUT alone, and no command's own step is one of
those that emit. -/
theorem storeCommandsLeaveTheScheduler : Obligations.StoreCommandsLeaveTheScheduler := by
  unfold Obligations.StoreCommandsLeaveTheScheduler
  constructor
  · intro s i hi
    obtain ⟨_, _, _, hexec⟩ := exec_storeCommand hi s
    exact ⟨_, hexec, rfl, rfl, rfl, rfl, rfl, rfl, rfl⟩
  · intro s t i hexec
    exact (exec_commandMove hexec).panelOut_eq

/-- Settles O24: a pixel written holds its colour, whatever FB held before, and shares no byte with another
pixel. -/
theorem pixelsReadBackAsDrawn : Obligations.PixelsReadBackAsDrawn := by
  unfold Obligations.PixelsReadBackAsDrawn
  constructor
  · intro s x y c d hx hy
    have hin : PixelInRange s.params x y := ⟨hx, hy⟩
    obtain ⟨t, ht, hparams, hreads, hother⟩ := exists_writePixel_readsBack hin c
    rw [← hparams] at hin
    obtain ⟨u, hu, _, hreads', _⟩ := exists_writePixel_readsBack hin d
    refine ⟨t, u, ht, hu, hreads, hreads', hother, ?_⟩
    intro x' y' hx' _ hne k hk
    have hapart := pixOff_disjoint hx hx' hne
    exact hother _ (by omega)
  · intro s c
    refine ⟨respond .ok 0x00#8 (fbFill s c), exec_fill c s, fun x y hx hy => ?_⟩
    have hparams : (respond .ok 0x00#8 (fbFill s c)).params = s.params := by rw [fbFill_eq]; rfl
    apply HoldsColor.pixelReadsBack <;> rw [hparams]
    · exact holdsColor_fbFill ⟨hx, hy⟩ c
    · exact ⟨hx, hy⟩

end Sys2Proof.Machine
end

section
/-! PROOF. The pixel conversion (41_band_converter.md R100 to R103): Pack565 is the concatenation of the top
bits of the colours, Swap16 is its own inverse, so a native word determines exactly those bits. -/

namespace Sys2Proof.Machine

/-! ### Slices of a word -/

/-- A word is the concatenation of its upper and its lower part. -/
theorem append_slices {m n : Nat} (v : BitVec (m + n)) :
    v.extractLsb' n m ++ v.extractLsb' 0 n = v := by
  rw [BitVec.extractLsb'_append_extractLsb'_eq_extractLsb' (Nat.zero_add n).symm,
    BitVec.extractLsb'_eq_self]

/-- A slice of a slice. -/
theorem slice_slice {n lo len start len' : Nat} (h : start + len' ≤ len) (v : BitVec n) :
    (v.extractLsb' lo len).extractLsb' start len' = v.extractLsb' (lo + start) len' := by
  ext i hi
  have hlt : start + i < len := by omega
  simp only [BitVec.getElem_extractLsb', BitVec.getLsbD_extractLsb', hlt, decide_true, Bool.true_and,
    Nat.add_assoc]

/-- Clearing bits outside a slice does not change the slice. -/
theorem slice_and_mask {mask : Byte} {start len : Nat}
    (h : mask.extractLsb' start len = BitVec.allOnes len) (c : Byte) :
    (c &&& mask).extractLsb' start len = c.extractLsb' start len := by
  rw [BitVec.extractLsb'_and, h, BitVec.and_allOnes]

/-! ### Pack565 -/

theorem pack565_red (r g b : Byte) : (pack565 r g b).extractLsb' 11 5 = r.extractLsb' 3 5 :=
  (BitVec.extractLsb'_append_eq_of_le (by decide)).trans BitVec.extractLsb'_append_eq_left

theorem pack565_green (r g b : Byte) : (pack565 r g b).extractLsb' 5 6 = g.extractLsb' 2 6 :=
  (BitVec.extractLsb'_append_eq_of_le (by decide)).trans BitVec.extractLsb'_append_eq_right

theorem pack565_blue (r g b : Byte) : (pack565 r g b).extractLsb' 0 5 = b.extractLsb' 3 5 :=
  BitVec.extractLsb'_append_eq_right

/-- A slice of the green field of Pack565 is one of green. -/
theorem pack565_green_slice {start len : Nat} (h : start + len ≤ 6) (r g b : Byte) :
    (pack565 r g b).extractLsb' (5 + start) len = g.extractLsb' (2 + start) len := by
  rw [← slice_slice h, pack565_green, slice_slice h]

/-- A 16-bit word is the concatenation of its 5-6-5 fields. -/
theorem append_fields565 (v : Half) :
    v.extractLsb' 11 5 ++ v.extractLsb' 5 6 ++ v.extractLsb' 0 5 = v := by
  rw [BitVec.extractLsb'_append_extractLsb'_eq_extractLsb' (show 11 = 5 + 6 from rfl)]
  exact append_slices (m := 11) (n := 5) v

/-- The colours that pack to a word are those whose top bits are its fields. -/
theorem pack565_eq_iff {r g b : Byte} {v : Half} :
    pack565 r g b = v ↔ r.extractLsb' 3 5 = v.extractLsb' 11 5 ∧
      g.extractLsb' 2 6 = v.extractLsb' 5 6 ∧ b.extractLsb' 3 5 = v.extractLsb' 0 5 := by
  constructor
  · rintro rfl
    exact ⟨(pack565_red r g b).symm, (pack565_green r g b).symm, (pack565_blue r g b).symm⟩
  · rintro ⟨hr, hg, hb⟩
    rw [pack565, hr, hg, hb, append_fields565]

/-- Pack565 as a number (41_band_converter.md R109). -/
theorem pack565_toNat (r g b : Byte) :
    (pack565 r g b).toNat = 2048 * (r.toNat / 8) + 32 * (g.toNat / 4) + b.toNat / 8 := by
  simp only [pack565, append_toNat, slice_toNat]
  omega

/-- A colour without its low `k` bits, as a number. -/
theorem setWidth_ushiftRight_toNat (c : Byte) (k : Nat) :
    (c.setWidth 16 >>> k).toNat = c.toNat / 2 ^ k := by
  rw [BitVec.toNat_ushiftRight, BitVec.toNat_setWidth_of_le (by decide), Nat.shiftRight_eq_div_pow]

/-- Each part lies below the lowest bit of the part to its left, so the sum of the parts is their OR. -/
theorem pack565_eq_or (r g b : Byte) :
    pack565 r g b = ((r.setWidth 16 >>> 3) <<< 11) ||| ((g.setWidth 16 >>> 2) <<< 5) |||
      (b.setWidth 16 >>> 3) := by
  have hr : ((r.setWidth 16 >>> 3) <<< 11).toNat = 2 ^ 11 * (r.toNat / 8) := by
    rw [BitVec.toNat_shiftLeft, setWidth_ushiftRight_toNat, Nat.shiftLeft_eq]
    omega
  have hg : ((g.setWidth 16 >>> 2) <<< 5).toNat = 2 ^ 5 * (g.toNat / 4) := by
    rw [BitVec.toNat_shiftLeft, setWidth_ushiftRight_toNat, Nat.shiftLeft_eq]
    omega
  have hb : (b.setWidth 16 >>> 3).toNat = b.toNat / 8 := setWidth_ushiftRight_toNat b 3
  have hblue : b.toNat / 8 < 2 ^ 5 := by omega
  have hgreen : 2 ^ 5 * (g.toNat / 4) + b.toNat / 8 < 2 ^ 11 := by omega
  apply BitVec.eq_of_toNat_eq
  rw [pack565_toNat, BitVec.or_assoc, BitVec.toNat_or, BitVec.toNat_or, hr, hg, hb,
    ← Nat.two_pow_add_eq_or_of_lt hblue, ← Nat.two_pow_add_eq_or_of_lt hgreen]
  omega

/-! ### Swap16 -/

/-- A 16-bit word is the concatenation of its two bytes. -/
theorem hi8_append_lo8 (v : Half) : hi8 v ++ lo8 v = v := append_slices (m := 8) (n := 8) v

@[simp] theorem swap16_swap16 (v : Half) : swap16 (swap16 v) = v := by
  rw [swap16, lo8_swap16, hi8_swap16, hi8_append_lo8]

/-- A slice of the upper byte after the exchange is one of the lower byte before. -/
theorem swap16_upper {start len : Nat} (h : start + len ≤ 8) (v : Half) :
    (swap16 v).extractLsb' (8 + start) len = v.extractLsb' start len := by
  rw [swap16, BitVec.extractLsb'_append_eq_of_le (Nat.le_add_right 8 start), Nat.add_sub_cancel_left, lo8,
    slice_slice h, Nat.zero_add]

/-- A slice of the lower byte after the exchange is one of the upper byte before. -/
theorem swap16_lower {start len : Nat} (h : start + len ≤ 8) (v : Half) :
    (swap16 v).extractLsb' start len = v.extractLsb' (8 + start) len := by
  rw [swap16, BitVec.extractLsb'_append_eq_of_add_le h, hi8, slice_slice h]

/-! ### Native -/

theorem native_eq_iff {r g b : Byte} {v : Half} : native r g b = v ↔ pack565 r g b = swap16 v := by
  constructor
  · rintro rfl
    exact (swap16_swap16 _).symm
  · intro h
    rw [native, h, swap16_swap16]

/-- Native keeps the top bits of the colours and nothing else (41_band_converter.md R103). -/
theorem native_eq_native_iff {r g b r' g' b' : Byte} : native r g b = native r' g' b' ↔
    r.extractLsb' 3 5 = r'.extractLsb' 3 5 ∧ g.extractLsb' 2 6 = g'.extractLsb' 2 6 ∧
      b.extractLsb' 3 5 = b'.extractLsb' 3 5 := by
  rw [native_eq_iff, native, swap16_swap16, pack565_eq_iff, pack565_red, pack565_green, pack565_blue]

/-! ### The colours of one native word -/

/-- The low bits of a colour, which the conversion drops (41_band_converter.md R103). -/
def droppedBits (t : Byte × Byte × Byte) : BitVec 3 × BitVec 2 × BitVec 3 :=
  (t.1.extractLsb' 0 3, t.2.1.extractLsb' 0 2, t.2.2.extractLsb' 0 3)

/-- The colour with the given low bits whose native word is `v`. -/
def colourOf (v : Half) (low : BitVec 3 × BitVec 2 × BitVec 3) : Byte × Byte × Byte :=
  ((swap16 v).extractLsb' 11 5 ++ low.1, (swap16 v).extractLsb' 5 6 ++ low.2.1,
    (swap16 v).extractLsb' 0 5 ++ low.2.2)

theorem droppedBits_colourOf (v : Half) (low : BitVec 3 × BitVec 2 × BitVec 3) :
    droppedBits (colourOf v low) = low := by
  simp only [droppedBits, colourOf, BitVec.extractLsb'_append_eq_right]

theorem native_colourOf (v : Half) (low : BitVec 3 × BitVec 2 × BitVec 3) :
    native (colourOf v low).1 (colourOf v low).2.1 (colourOf v low).2.2 = v :=
  native_eq_iff.mpr <| pack565_eq_iff.mpr
    ⟨BitVec.extractLsb'_append_eq_left, BitVec.extractLsb'_append_eq_left,
      BitVec.extractLsb'_append_eq_left⟩

theorem colourOf_droppedBits (t : Byte × Byte × Byte) :
    colourOf (native t.1 t.2.1 t.2.2) (droppedBits t) = t := by
  obtain ⟨r, g, b⟩ := t
  obtain ⟨hr, hg, hb⟩ := pack565_eq_iff.mp (native_eq_iff.mp (rfl : native r g b = _))
  simp only [colourOf, droppedBits, ← hr, ← hg, ← hb]
  exact Prod.ext (append_slices (m := 5) (n := 3) r)
    (Prod.ext (append_slices (m := 6) (n := 2) g) (append_slices (m := 5) (n := 3) b))

theorem native_eq_iff_exists_colourOf {t : Byte × Byte × Byte} {v : Half} :
    native t.1 t.2.1 t.2.2 = v ↔ ∃ low, colourOf v low = t := by
  constructor
  · rintro rfl
    exact ⟨droppedBits t, colourOf_droppedBits t⟩
  · rintro ⟨low, rfl⟩
    exact native_colourOf v low

/-- A native word has one colour for each value of the 8 bits dropped. -/
theorem card_native_eq (v : Half) :
    (Finset.univ.filter fun t : Byte × Byte × Byte => native t.1 t.2.1 t.2.2 = v).card = 256 := by
  have himage : (Finset.univ.filter fun t : Byte × Byte × Byte => native t.1 t.2.1 t.2.2 = v) =
      (Finset.univ ×ˢ Finset.univ ×ˢ Finset.univ).image (colourOf v) := by
    ext t
    simp only [Finset.mem_filter, Finset.mem_univ, true_and, Finset.mem_image, Finset.mem_product,
      native_eq_iff_exists_colourOf]
  have hinj : Function.Injective (colourOf v) := Function.LeftInverse.injective (droppedBits_colourOf v)
  rw [himage, Finset.card_image_of_injective _ hinj]
  simp only [Finset.card_product, Finset.card_univ, ← FinEnum.card_eq_fintypeCard, FinEnum.card_bitVec,
    Nat.reducePow, Nat.reduceMul]

/-! ### The statements -/

/-- Settles O25: the fields are the parts of the concatenation, which is the OR of the shifted parts. -/
theorem pack565TakesTheTopBits : Obligations.Pack565TakesTheTopBits := by
  unfold Obligations.Pack565TakesTheTopBits
  intro r g b
  exact ⟨pack565_red r g b, pack565_green r g b, pack565_blue r g b, pack565_eq_or r g b⟩

/-- Settles O26: a concatenation as a number is a sum. -/
theorem pack565IsASum : Obligations.Pack565IsASum := by
  unfold Obligations.Pack565IsASum
  exact pack565_toNat

/-- Settles O27: the bytes of the swapped word are those of the word, exchanged. -/
theorem swap16ExchangesTheBytes : Obligations.Swap16ExchangesTheBytes := by
  unfold Obligations.Swap16ExchangesTheBytes
  intro v
  exact ⟨hi8_swap16 v, lo8_swap16 v, swap16_swap16 v⟩

/-- Settles O28: Swap16 moves the blue and the lower green bits to the upper byte, the red and the upper green
bits to the lower. -/
theorem nativeBitLayout : Obligations.NativeBitLayout := by
  unfold Obligations.NativeBitLayout
  constructor
  · intro r g b
    exact ⟨rfl,
      (swap16_upper (start := 5) (by decide) _).trans (pack565_green_slice (start := 0) (by decide) r g b),
      (swap16_upper (start := 0) (by decide) _).trans (pack565_blue r g b),
      (swap16_lower (start := 3) (by decide) _).trans (pack565_red r g b),
      (swap16_lower (start := 0) (by decide) _).trans (pack565_green_slice (start := 3) (by decide) r g b)⟩
  · decide

/-- Settles O29: the word determines the top bits of the colours, which the masks keep, and leaves the 8 bits
below them free. -/
theorem conversionTruncates : Obligations.ConversionTruncates := by
  unfold Obligations.ConversionTruncates
  refine ⟨?_, fun _ _ _ _ _ _ => native_eq_native_iff, card_native_eq⟩
  intro r g b
  exact native_eq_native_iff.mpr ⟨(slice_and_mask (by decide) r).symm,
    (slice_and_mask (by decide) g).symm, (slice_and_mask (by decide) b).symm⟩

end Sys2Proof.Machine
end

section
/-! PROOF. The band conversion (41_band_converter.md R104 to R106, R108): the words of the slot it writes, as a
function of FB, and what it leaves. -/

namespace Sys2Proof.Machine

/-- A conversion changes STAGE and nothing else. -/
theorem convertRows_eq_stage (r : Nat) (slot : Bool) (s : State) :
    convertRows r slot s = { s with stage := (convertRows r slot s).stage } := by
  rw [convertRows_eq]

/-- The native pixel at an address depends on what FB reads as, not on how it is written down. -/
theorem nativeAt_of_fbRead_eq {s t : State} (h : ∀ a, fbRead t a = fbRead s a) (a : Nat) :
    nativeAt t a = nativeAt s a := by
  simp only [nativeAt, h]

/-- The words of the slot after a conversion: the band's, and beyond it what stood there. -/
theorem stageRead_convertRows (r : Nat) (slot : Bool) (s : State) (q : Nat) :
    stageRead (convertRows r slot s) slot q =
      if q < s.params.bandPixels then bandPixel s r q else stageRead s slot q := by
  rw [stageRead, read_convertRows, convertRows_run]
  split <;> rfl

/-- A column of a band row has its word in the band (20_memory.md R44). -/
theorem stageIndex_lt_bandPixels {p : Params} {j i : Nat} (hj : j < p.bandHeight) (hi : i < p.width) :
    p.stageIndex j i < p.bandPixels := by
  have hrows : (j + 1) * p.width ≤ p.bandHeight * p.width := Nat.mul_le_mul_right _ hj
  rw [Nat.succ_mul] at hrows
  rw [Params.stageIndex, Params.bandPixels, Nat.mul_comm p.width]
  omega

/-- Word `stageIndex j i` of a band is made of pixel `(i, r + j)` of the frame (20_memory.md R41, R44). -/
theorem bandPixel_stageIndex (s : State) (r j i : Nat) :
    bandPixel s r (s.params.stageIndex j i) = nativeAt s (s.params.pixOff i (r + j)) := by
  rw [bandPixel, Params.stageIndex, Params.pixOff]
  congr 1
  ring

/-! ### The statements -/

/-- Settles O30: the command is the conversion of the band into STAGE[sel] and a response. -/
theorem convertBandFillsTheSelectedSlot : Obligations.ConvertBandFillsTheSelectedSlot := by
  unfold Obligations.ConvertBandFillsTheSelectedSlot
  intro s r hband hfree
  refine ⟨_, execConvertBand_in hband hfree, ?_, ?_, ?_, ?_⟩
  · intro j i hj hi
    exact (stageRead_convertRows r s.sel s _).trans <|
      (if_pos (stageIndex_lt_bandPixels hj hi)).trans (bandPixel_stageIndex s r j i)
  · intro q hq
    exact (stageRead_convertRows r s.sel s q).trans (if_neg hq.not_gt)
  · exact convertRows_stage_other (by simp)
  · exact congrArg (respond .ok 0x00#8) (convertRows_eq_stage r s.sel s)

/-- Settles O32: both conversions leave the words of the band, which depend on the parameters and on what FB
reads as. -/
theorem convertBandIsPure : Obligations.ConvertBandIsPure := by
  unfold Obligations.ConvertBandIsPure
  intro s t r slot h
  obtain ⟨_, _, rfl⟩ := convertBand_next h
  refine ⟨convertRows_eq_stage r slot s, convertRows_stage_other (by simp), ?_⟩
  intro s' t' slot' hparams hfb h' q hq
  obtain ⟨_, _, rfl⟩ := convertBand_next h'
  rw [stageRead_convertRows, hparams, if_pos hq, stageRead_convertRows, if_pos hq, bandPixel, bandPixel,
    nativeAt_of_fbRead_eq hfb, hparams]

/-- Settles O33: the loops over the rows and columns of the band reach every word of the slot. -/
theorem convertBandWritesTheWholeSlot : Obligations.ConvertBandWritesTheWholeSlot := by
  unfold Obligations.ConvertBandWritesTheWholeSlot
  intro s r slot hfree hband
  refine ⟨_, convertBand_ok hfree hband, ?_, convertRows_eq r slot s⟩
  intro q hq
  exact (read_convertRows r slot s q).trans (if_pos hq)

end Sys2Proof.Machine
end

section
/-! PROOF. The frame of a band-write (42_transfer_scheduler.md R126), and the frames of one REFRESH as a function
of FB (R129, R131). -/

namespace Sys2Proof.Machine

variable {s u : State}

/-! ### The frame, symbol by symbol -/

theorem frame_length (s : State) (r : Half) (slot : Bool) :
    (frame s r slot).length = 11 + s.params.bandBytes := by
  rw [frame, List.length_append, frameHeader_length, slotSymbols_length]

theorem take_frame (s : State) (r : Half) (slot : Bool) :
    (frame s r slot).take 11 = frameHeader s.params r :=
  List.take_left' (frameHeader_length s.params r)

/-- Word `p` of the slot stands at the symbols `11 + 2 * p` and the next. -/
theorem getElem?_frame (s : State) (r : Half) (slot : Bool) {p j : Nat} (hp : p < s.params.bandPixels)
    (hj : j < 2) : (frame s r slot)[11 + (2 * p + j)]? = (wordSymbols (stageRead s slot p))[j]? := by
  rw [frame, List.getElem?_append_right (by simp), frameHeader_length, Nat.add_sub_cancel_left]
  exact getElem?_flatMap_range_two _ (fun _ => rfl) hp hj

/-- Settles O35: the frame is the header and the words of the slot, and the end row fits 16 bits because the
band lies in the frame. -/
theorem bandWriteEmitsTheFrame : Obligations.BandWriteEmitsTheFrame := by
  unfold Obligations.BandWriteEmitsTheFrame
  intro s r slot hl hband
  refine ⟨frame s r slot, pageEnd s.params r, bandWrite_ok hband, nextRow_toNat hl hband,
    frame_length s r slot, take_frame s r slot, ?_⟩
  intro p hp
  constructor
  · exact getElem?_frame s r slot hp (j := 0) (by omega)
  · rw [show 12 + 2 * p = 11 + (2 * p + 1) by omega]
    exact getElem?_frame s r slot hp (by omega)

/-! ### The frames of the bands -/

/-- The frame from a slot that holds band `k` is that band's. -/
theorem HoldsBand.frame_eq_bandFrame {row : Half} {slot : Bool} {k : Nat}
    (h : HoldsBand s slot row.toNat) (hrow : row.toNat = k * s.params.bandHeight) :
    frame s row slot = bandFrame s k := by
  rw [frame, h.slotSymbols_eq, bandFrame, ← hrow, BitVec.ofNat_toNat, BitVec.setWidth_eq]

/-- The frame of a band depends on what FB reads as and on the parameters but OVERLAP. -/
theorem bandFrame_congr (hparams : u.params = { s.params with overlap := u.params.overlap })
    (hfb : ∀ a, fbRead u a = fbRead s a) (k : Nat) : bandFrame u k = bandFrame s k := by
  unfold bandFrame pixelSymbols
  simp only [hfb]
  rw [hparams]
  rfl

theorem bandFrame_length (s : State) (k : Nat) : (bandFrame s k).length = 11 + s.params.bandBytes := by
  rw [bandFrame, List.length_append, frameHeader_length, flatMap_range_length_two _ (fun _ => rfl)]
  rfl

/-- The pixel symbols of a band's frame: those after the header, row-major. -/
theorem drop_bandFrame (s : State) (k : Nat) : (bandFrame s k).drop 11 =
    (List.range s.params.bandPixels).flatMap fun q =>
      pixelSymbols s (3 * (k * s.params.bandHeight * s.params.width + q)) :=
  List.drop_left' (frameHeader_length _ _)

/-- The symbols of one REFRESH (42_transfer_scheduler.md R129). -/
theorem refreshSymbols_length (s : State) :
    (refreshSymbols s).length = s.params.bands * (11 + s.params.bandBytes) := by
  simp [refreshSymbols, List.length_flatMap, bandFrame_length]

/-! ### The bands of a frame -/

theorem bands_mul_bandHeight {p : Params} (hl : p.Legal) : p.bands * p.bandHeight = p.height :=
  Nat.div_mul_cancel (legal_bandHeight_dvd hl)

theorem bands_pos {p : Params} (hl : p.Legal) : 0 < p.bands := by
  obtain ⟨_, _, _, _, hpos, hle, _⟩ := hl
  exact Nat.div_pos hle hpos

theorem bands_mul_bandPixels {p : Params} (hl : p.Legal) :
    p.bands * p.bandPixels = p.width * p.height := by
  rw [Params.bandPixels, Nat.mul_left_comm, bands_mul_bandHeight hl]

/-- The rows of band `k` are those whose quotient by BAND_HEIGHT is `k` (42_transfer_scheduler.md R131). -/
theorem row_in_band_iff {p : Params} (hpos : 0 < p.bandHeight) {y k : Nat} :
    k * p.bandHeight ≤ y ∧ y < (k + 1) * p.bandHeight ↔ y / p.bandHeight = k := by
  rw [Nat.div_eq_iff hpos, Nat.succ_mul]
  omega

/-- Runs of `m` numbers, one after another, are the numbers in order. -/
theorem flatMap_range_flatMap_range {α : Type} (f : Nat → List α) (n m : Nat) :
    ((List.range n).flatMap fun k => (List.range m).flatMap fun q => f (k * m + q)) =
      (List.range (n * m)).flatMap f := by
  induction n with
  | zero => simp
  | succ n ih =>
    rw [List.range_succ, List.flatMap_append, List.flatMap_singleton, ih, Nat.succ_mul, List.range_add,
      List.flatMap_append, List.flatMap_map]

/-- Settles O46: row `y` lies in band `y / BAND_HEIGHT` alone, and the pixels of the bands follow one another
as BAND_PIXELS at a time. -/
theorem refreshCoversEveryPixelOnce : Obligations.RefreshCoversEveryPixelOnce := by
  unfold Obligations.RefreshCoversEveryPixelOnce
  intro s hl
  have hpos := legal_bandHeight_pos hl
  have hheight := bands_mul_bandHeight hl
  have hband := fun y k => row_in_band_iff (y := y) (k := k) hpos
  refine ⟨?_, ?_, ?_⟩
  · intro y hy
    refine ⟨y / s.params.bandHeight, ⟨?_, (hband y _).mpr rfl⟩, ?_⟩
    · exact Nat.div_lt_of_lt_mul (by rwa [Nat.mul_comm, hheight])
    · rintro k ⟨_, hk⟩
      exact ((hband y k).mp hk).symm
  · intro k hk y _ hy
    rw [← hheight]
    exact hy.trans_le (Nat.mul_le_mul_right _ hk)
  · rw [← bands_mul_bandPixels hl, ← flatMap_range_flatMap_range fun m => pixelSymbols s (3 * m)]
    refine List.flatMap_congr fun k _ => ?_
    rw [drop_bandFrame, Nat.mul_assoc, Nat.mul_comm s.params.bandHeight]
    rfl

end Sys2Proof.Machine
end

section
/-! PROOF. The steps of the scheduler, each with its whole next state (42_transfer_scheduler.md R120 to R123, R132,
R133, R135). -/

namespace Sys2Proof.Machine

variable {s t : State} {turn : Turn}

/-! ### The turn and the step -/

/-- A turn other than the one an empty list stands for is the head of the list. -/
theorem headTurn_eq_iff {turns : List Turn} (hturn : turn ≠ .producerFirst) :
    turns.head?.getD .producerFirst = turn ↔ turns.head? = some turn := by
  cases turns with
  | nil => simpa using hturn.symm
  | cons x xs => simp

/-- A step with a REFRESH in progress and no reset is the scheduler's. -/
theorem step_refreshing (hl : s.params.Legal) (hr : ∀ n, s.turns.head? ≠ some (.reset n))
    (hi : s.phase ≠ .idle) :
    step s = refreshStep (s.turns.head?.getD .producerFirst) (popTurn s) := by
  rw [step_run hl hr, if_neg hi]

/-- Settles O39: the acceptance is those three assignments. -/
theorem refreshIsAccepted : Obligations.RefreshIsAccepted := by
  unfold Obligations.RefreshIsAccepted
  intro s
  rfl

/-! ### OVERLAP = 0 -/

/-- Settles O40: the step is the conversion of the band at `row`, and the phase. -/
theorem convertStepFillsTheSlot : Obligations.ConvertStepFillsTheSlot := by
  unfold Obligations.ConvertStepFillsTheSlot
  intro s hl hover hphase hfree hband hr
  have hstep : step s = .next { convertRows s.row.toNat s.sel (popTurn s) with phase := .write } := by
    rw [step_refreshing hl hr (by simp [hphase]), refreshStep_convert (s := popTurn s) hphase hover]
    exact convertStep_eq (s := popTurn s) hfree hband
  refine ⟨_, hstep, ?_, ?_⟩
  · exact (holdsBand_convertRows s.row.toNat s.sel (popTurn s)).congr rfl rfl rfl rfl
  · exact congrArg (fun u => { u with phase := .write }) (convertRows_eq s.row.toNat s.sel (popTurn s))

theorem loopTest_row (s : State) : (loopTest s).row = s.row := by
  unfold loopTest
  split <;> rfl

/-- Settles O41: the frame goes out, and the loop test at the next row goes on or completes. -/
theorem writeStepEmitsAndAdvances : Obligations.WriteStepEmitsAndAdvances := by
  unfold Obligations.WriteStepEmitsAndAdvances
  intro s hl hover hphase hband hbusy hr
  have hstep : step s = .next (loopTest (afterWrite (popTurn s))) := by
    rw [step_refreshing hl hr (by simp [hphase]), refreshStep_write (s := popTurn s) hphase hover, if_neg]
    · exact writeStep_eq (s := popTurn s) hband
    · rwa [headTurn_eq_iff (by decide)]
  have hnext : (afterWrite (popTurn s)).row.toNat = s.row.toNat + s.params.bandHeight :=
    nextRow_toNat hl hband
  have hrow : (loopTest (afterWrite (popTurn s))).row.toNat = s.row.toNat + s.params.bandHeight := by
    rw [loopTest_row, hnext]
  refine ⟨_, hstep, hrow, ?_, ?_⟩
  · intro hlt
    rw [loopTest_lt (hnext ▸ hlt)]
    rfl
  · intro hge
    refine ⟨hrow.trans (Nat.le_antisymm hband hge), ?_⟩
    rw [loopTest_ge (hnext ▸ hge)]
    rfl

/-! ### OVERLAP = 1 -/

/-- A step with OVERLAP = 1, a REFRESH in progress and no reset. -/
theorem step_overlap (hl : s.params.Legal) (hr : ∀ n, s.turns.head? ≠ some (.reset n))
    (hphase : s.phase = .convert ∨ s.phase = .drain) (hover : s.params.overlap = true) :
    step s = overlapStep (s.turns.head?.getD .producerFirst) (popTurn s) := by
  have hi : s.phase ≠ .idle := by
    rintro hidle
    simp [hidle] at hphase
  rw [step_refreshing hl hr hi]
  exact refreshStep_overlap (s := popTurn s) hphase hover

/-- The producer moves where its slot is free and the turn does not put the consumer first. -/
theorem overlapStep_producer (henabled : producerEnabled s = true)
    (hturn : s.pending = [] ∨ turn ≠ .consumerFirst) : overlapStep turn s = producerStep s := by
  cases hpending : s.pending with
  | nil => rw [overlapStep_nil hpending, if_pos henabled]
  | cons e rest =>
    have hnot : turn ≠ .consumerFirst := hturn.resolve_left (by simp [hpending])
    rw [overlapStep_cons hpending, if_neg hnot]
    simp only [henabled, if_true, ite_self]

/-- The consumer moves where the backend accepts and the turn names it or the producer has no step. -/
theorem overlapStep_consumer {e : BandWriteReq} {rest : List BandWriteReq} (hpending : s.pending = e :: rest)
    (hbusy : turn ≠ .backendBusy) (hturn : turn = .consumerFirst ∨ producerEnabled s = false) :
    overlapStep turn s = consumerStep e rest s := by
  rw [overlapStep_cons hpending, if_neg hbusy]
  obtain rfl | hnot := hturn
  · exact if_pos rfl
  · rw [hnot, if_neg Bool.false_ne_true, ite_self]

theorem drainTest_eq (s : State) : drainTest s =
    { s with phase := if s.params.height ≤ s.row.toNat then .drain else s.phase } := by
  unfold drainTest
  by_cases hge : s.params.height ≤ s.row.toNat
  · rw [if_pos hge, if_pos hge]
  · rw [if_neg hge, if_neg hge]

theorem afterProduce_eq (s : State) : afterProduce s = { s with
    stage := s.stage.set s.sel ((convertRows s.row.toNat s.sel s).stage.get s.sel)
    inflight := s.inflight.set s.sel true, pending := s.pending ++ [⟨s.row, s.sel⟩], sel := !s.sel
    row := BitVec.ofNat 16 (s.row.toNat + s.params.bandHeight) } := by
  unfold afterProduce
  rw [convertRows_eq]
  simp

/-- The producer step as a whole: the slot holds the band at `row`, and its band-write is issued. -/
theorem drainTest_afterProduce (hl : s.params.Legal) (hphase : s.phase = .convert)
    (hband : BandInRange s.params s.row.toNat) (ht : t = drainTest (afterProduce s)) :
    HoldsBand t s.sel s.row.toNat ∧ t.row.toNat = s.row.toNat + s.params.bandHeight ∧
    t = { s with
      stage := s.stage.set s.sel (t.stage.get s.sel), inflight := s.inflight.set s.sel true
      pending := s.pending ++ [⟨s.row, s.sel⟩], sel := !s.sel, row := t.row
      phase := if s.params.height ≤ s.row.toNat + s.params.bandHeight then .drain else .convert } := by
  have hnext := nextRow_toNat hl hband
  rw [drainTest_eq, afterProduce_eq] at ht
  simp only [hnext, hphase] at ht
  subst ht
  refine ⟨?_, hnext, by simp⟩
  exact (holdsBand_convertRows s.row.toNat s.sel s).congr (by simp) (by simp) (by simp) (by simp)

/-- Settles O42: a producer with its slot free moves; one that holds leaves the step to the consumer, or to
waiting on the backend. -/
theorem producerConvertsAndIssues : Obligations.ProducerConvertsAndIssues := by
  unfold Obligations.ProducerConvertsAndIssues
  constructor
  · intro s hl hover hphase hfree hband hr hturn
    have hstep : step s = .next (drainTest (afterProduce (popTurn s))) := by
      have henabled : producerEnabled (popTurn s) = true := (producerEnabled_iff _).mpr ⟨hphase, hfree⟩
      rw [step_overlap hl hr (.inl hphase) hover, overlapStep_producer henabled]
      · exact producerStep_eq (s := popTurn s) hfree hband
      · rwa [Ne, headTurn_eq_iff (by decide)]
    exact ⟨_, hstep, drainTest_afterProduce (s := popTurn s) hl hphase hband rfl⟩
  · intro s t hover hphase hinflight hr hstep
    obtain ⟨hl, _⟩ := step_next hstep
    rw [step_overlap hl hr (.inl hphase) hover] at hstep
    obtain ⟨_, hproduce⟩ | ⟨e, rest, hpending, hbusy, hconsume⟩ | ⟨hdrain, _⟩ | ⟨hbusy, _, _, rfl⟩ :=
      overlapStep_next hstep
    · obtain ⟨hfree, _⟩ := producerStep_next hproduce
      exact absurd (hinflight.symm.trans hfree) (by decide)
    · obtain ⟨_, rfl⟩ := consumerStep_next hconsume
      rw [Ne, headTurn_eq_iff (by decide)] at hbusy
      exact ⟨rfl, rfl, rfl, hphase, fun h => absurd h hbusy, fun _ => ⟨e, rest, hpending, rfl⟩⟩
    · exact absurd (hphase.symm.trans hdrain) (by decide)
    · rw [headTurn_eq_iff (by decide)] at hbusy
      exact ⟨rfl, rfl, rfl, hphase, fun _ => rfl, fun h => absurd hbusy h⟩

/-- Settles O43: the turn names the consumer, or the producer has no step because its slot is in flight or every
band is converted. -/
theorem consumerEmitsTheOldest : Obligations.ConsumerEmitsTheOldest := by
  unfold Obligations.ConsumerEmitsTheOldest
  intro s e rest hl hover hpending hband hagent hbusy hr
  have hphase : s.phase = .convert ∨ s.phase = .drain := hagent.imp_left And.left
  have hturn : s.turns.head? = some .consumerFirst ∨ producerEnabled s = false := by
    obtain ⟨_, hfirst | hinflight⟩ | hdrain := hagent
    · exact .inl hfirst
    · exact .inr (by simp [producerEnabled, hinflight])
    · exact .inr (by simp [producerEnabled, hdrain])
  rw [step_overlap hl hr hphase hover, overlapStep_consumer (s := popTurn s) hpending]
  · exact consumerStep_eq (s := popTurn s) hband
  · rwa [Ne, headTurn_eq_iff (by decide)]
  · rwa [headTurn_eq_iff (by decide)]

/-- Settles O44: with nothing pending DRAIN has the completion alone; otherwise it has a consumer step or waits,
and both leave `phase` and RSP_OUT. -/
theorem drainCompletesWhenEmpty : Obligations.DrainCompletesWhenEmpty := by
  unfold Obligations.DrainCompletesWhenEmpty
  intro s hl hover hphase hr
  rw [step_overlap hl hr (.inr hphase) hover]
  constructor
  · intro hpending
    have hnone : ¬ producerEnabled (popTurn s) = true := by simp [producerEnabled_iff, hphase]
    rw [overlapStep_nil (s := popTurn s) hpending, if_neg hnone]
    exact if_pos hphase
  · intro hpending t hstep
    obtain ⟨hconvert, _⟩ | ⟨e, rest, _, _, hconsume⟩ | ⟨_, hnone, _⟩ | ⟨_, _, _, rfl⟩ :=
      overlapStep_next hstep
    · exact absurd (hconvert.symm.trans hphase) (by decide)
    · obtain ⟨_, rfl⟩ := consumerStep_next hconsume
      exact ⟨hphase, rfl⟩
    · exact absurd hnone hpending
    · exact ⟨hphase, rfl⟩

end Sys2Proof.Machine
end

section
/-! PROOF. No unspecified staging word reaches the panel stream (42_transfer_scheduler.md R134): whatever is next on
it comes from a slot of which the invariant says that it holds its band. -/

namespace Sys2Proof.Machine

variable {s t : State}

/-- A frame that holds its band is all that a move of a REFRESH can emit. -/
theorem RefreshMove.emits_held (hm : RefreshMove s t) (h : Inv s) :
    t.panelOut = s.panelOut ∨
      ∃ (r : Half) (slot : Bool), t.panelOut = s.panelOut ++ frame s r slot ∧ HoldsBand s slot r.toNat := by
  cases hm with
  | convert => exact .inl (convertRows_panelOut _ _ s)
  | write _ hphase => exact .inr ⟨s.row, s.sel, loopTest_panelOut _, h.writeHolds hphase⟩
  | wait => exact .inl rfl
  | produce => exact .inl ((drainTest_panelOut _).trans (convertRows_panelOut _ _ s))
  | consume e rest _ _ hpending =>
    exact .inr ⟨e.row, e.slot, rfl, h.pendingHolds e (by simp [hpending])⟩
  | complete => exact .inl rfl

/-- The frame that is next, if one is, holds its band. -/
theorem nextFrame_held (h : Inv s) :
    nextFrame s = [] ∨
      ∃ (r : Half) (slot : Bool), nextFrame s = frame s r slot ∧ HoldsBand s slot r.toNat := by
  unfold nextFrame
  split
  · split
    · rename_i hphase
      exact .inr ⟨s.row, s.sel, rfl, h.writeHolds hphase⟩
    · exact .inl rfl
  · split
    · exact .inl rfl
    · rename_i e rest hpending
      exact .inr ⟨e.row, e.slot, rfl, h.pendingHolds e (by simp [hpending])⟩

/-- Settles O38: a step without a reset emits by a move of the scheduler, a reset cuts the next frame short. -/
theorem noUnwrittenWordIsEmitted : Obligations.NoUnwrittenWordIsEmitted := by
  unfold Obligations.NoUnwrittenWordIsEmitted
  intro s t h hstep hemits
  have hpop : Inv (popTurn s) := h.withPorts s.cmdIn s.turns.tail
  obtain ⟨_, ⟨n, hn, rfl⟩ | ⟨_, _, _, rfl⟩ | ⟨w, ws, _, _, _, hrun⟩ | ⟨hi, hr, hrefresh⟩⟩ := step_next hstep
  · obtain hnone | ⟨r, slot, hframe, hholds⟩ := nextFrame_held hpop
    · exact absurd (by simp [hnone]) hemits
    · refine ⟨r, slot, .inr ⟨n, hn, ?_⟩, hholds⟩
      rw [resetEvent_panelOut, hframe]
      rfl
  · exact absurd rfl hemits
  · exact absurd (runWord_commandMove hrun).panelOut_eq hemits
  · obtain hnone | ⟨r, slot, hframe, hholds⟩ := (refreshStep_move hrefresh hi).emits_held hpop
    · exact absurd hnone hemits
    · exact ⟨r, slot, .inl ⟨hr, hframe⟩, hholds⟩

end Sys2Proof.Machine
end

section
/-! PROOF. A REFRESH as a whole (42_transfer_scheduler.md R129): how far it has come, as one predicate that its
acceptance sets up and every move of the scheduler keeps, in either variant. -/

namespace Sys2Proof.Machine

variable {s t u : State} {k emitted converted : Nat}

/-! ### How far a REFRESH has come -/

/-- Since `s` PANEL_OUT has gained the frames of the first `emitted` bands. -/
def Emitted (s : State) (emitted : Nat) (u : State) : Prop :=
  u.panelOut = s.panelOut ++ (List.range emitted).flatMap (bandFrame s)

/-- With the first `converted` bands converted since `s`: the last two of them stand in their slots, and slot 1
is as it was until the second. -/
structure SlotsHold (s : State) (converted : Nat) (u : State) : Prop where
  holds : ∀ k, k < converted → converted ≤ k + 2 →
    HoldsBand u (s.params.bandSlot (k * s.params.bandHeight)) (k * s.params.bandHeight)
  slot1 : converted ≤ 1 → u.stage.slot1 = s.stage.slot1

/-- The REFRESH accepted in `s` is at band `k`: the pending bands are converted and not yet emitted, and in WRITE
the band at `row` is converted too. -/
structure AtBand (s : State) (k : Nat) (u : State) : Prop where
  row : u.row.toNat = k * s.params.bandHeight
  sel : u.sel = u.params.bandSlot u.row.toNat
  panel : ∃ emitted, emitted + u.pending.length = k ∧ Emitted s emitted u
  slots : SlotsHold s (if u.phase = .write then k + 1 else k) u
  rsp : u.rspOut = s.rspOut ++ if u.phase = .idle then [0x0000#16] else []
  atEnd : u.phase = .idle → u.row.toNat = s.params.height

theorem Emitted.emit (h : Emitted s emitted u) (ht : t.panelOut = u.panelOut ++ bandFrame s emitted) :
    Emitted s (emitted + 1) t := by
  rw [Emitted, ht, h, List.range_succ, List.flatMap_append, List.flatMap_singleton, List.append_assoc]

theorem SlotsHold.congr (h : SlotsHold s converted u) (hparams : t.params = u.params)
    (hstore : KeepsStore u t) (hstage : t.stage = u.stage) : SlotsHold s converted t where
  holds k hlt hle := (h.holds k hlt hle).congr hparams hstore.fb hstore.run (by rw [hstage])
  slot1 hle := by rw [hstage, h.slot1 hle]

theorem bandSlot_succ {p : Params} (hpos : 0 < p.bandHeight) (k : Nat) :
    p.bandSlot ((k + 1) * p.bandHeight) = !p.bandSlot (k * p.bandHeight) := by
  rw [Nat.succ_mul, bandSlot_add_bandHeight hpos]

/-- Converting the next band keeps the one before, which is in the other slot (42_transfer_scheduler.md R130). -/
theorem SlotsHold.convertRows (h : SlotsHold s k u) (hpos : 0 < s.params.bandHeight) {row : Nat}
    {slot : Bool} (hrow : row = k * s.params.bandHeight) (hslot : slot = s.params.bandSlot row) :
    SlotsHold s (k + 1) (convertRows row slot u) := by
  subst hrow hslot
  constructor
  · intro j hlt hle
    obtain rfl | rfl : j = k ∨ k = j + 1 := by omega
    · exact holdsBand_convertRows _ _ u
    · refine (h.holds j (by omega) (by omega)).convertRows_other ?_
      simp [bandSlot_succ hpos]
  · intro hle
    obtain rfl : k = 0 := by omega
    have hother : true ≠ s.params.bandSlot (0 * s.params.bandHeight) := by simp [bandSlot_zero]
    exact (convertRows_stage_other hother).trans (h.slot1 (Nat.zero_le 1))

/-! ### Acceptance and the moves -/

/-- The bands pending are the last before `row`, so the oldest is the first not yet emitted. -/
theorem PendingBands.head_row_eq {p : Params} {row : Nat} {e : BandWriteReq} {rest : List BandWriteReq}
    (h : PendingBands p row (e :: rest)) : e.row.toNat + (rest.length + 1) * p.bandHeight = row := by
  match rest, h with
  | [], ⟨hrow, _⟩ => simpa using hrow
  | [b], ⟨hab, hrow, _⟩ =>
    simp only [List.length_singleton, Nat.succ_mul, Nat.zero_mul]
    omega

theorem atBand_accepted (hpending : s.pending = []) :
    AtBand s 0 { s with row := 0#16, sel := false, phase := .convert } where
  row := by simp
  sel := by simp [bandSlot_zero]
  panel := ⟨0, by simp [hpending], by simp [Emitted]⟩
  slots := ⟨fun k hk => absurd hk (Nat.not_lt_zero k), fun _ => rfl⟩
  rsp := by simp
  atEnd := by simp

/-- The loop test and the completion after band `k - 1` is out. -/
theorem atBand_loopTest (hrow : u.row.toNat = k * s.params.bandHeight)
    (hsel : u.sel = u.params.bandSlot u.row.toNat) (hpending : u.pending = []) (hpanel : Emitted s k u)
    (hslots : SlotsHold s k u) (hrsp : u.rspOut = s.rspOut) (hle : u.row.toNat ≤ s.params.height)
    (hparams : u.params = s.params) : AtBand s k (loopTest u) := by
  by_cases hlt : u.row.toNat < u.params.height
  · rw [loopTest_lt hlt]
    exact ⟨hrow, hsel, ⟨k, by simp [hpending], hpanel⟩, hslots.congr rfl ⟨rfl, rfl, rfl⟩ rfl,
      by simp [hrsp], by simp⟩
  · rw [loopTest_ge (Nat.not_lt.mp hlt)]
    rw [hparams, Nat.not_lt] at hlt
    exact ⟨hrow, hsel, ⟨k, by simp [hpending], hpanel⟩, hslots.congr rfl ⟨rfl, rfl, rfl⟩ rfl,
      by simp [hrsp, responseWord, statusCode], fun _ => Nat.le_antisymm hle hlt⟩

/-- The producer's test for DRAIN. -/
theorem AtBand.drainTest (h : AtBand s k u) (hphase : u.phase = .convert) : AtBand s k (drainTest u) := by
  unfold Machine.drainTest
  split
  · have hslots := h.slots
    have hrsp := h.rsp
    rw [hphase] at hslots hrsp
    exact { h with
      slots := hslots.congr rfl ⟨rfl, rfl, rfl⟩ rfl
      rsp := hrsp
      atEnd := by simp }
  · exact h

/-- The frame from a slot that holds band `k` of the state it was converted in. -/
theorem HoldsBand.frame_eq_bandFrame_of (hparams : u.params = s.params) (hstore : KeepsStore s u) {row : Half}
    {slot : Bool} (h : HoldsBand u slot row.toNat) (hrow : row.toNat = k * s.params.bandHeight) :
    frame u row slot = bandFrame s k := by
  rw [h.frame_eq_bandFrame (by rw [hrow, hparams])]
  exact bandFrame_congr (by rw [hparams]) (fbRead_congr hstore.fb hstore.run) k

section
variable (h : Inv u) (hparams : u.params = s.params) (hat : AtBand s k u)
include hat

theorem AtBand.rsp_eq (hi : u.phase ≠ .idle) : u.rspOut = s.rspOut := by simpa [hi] using hat.rsp

theorem AtBand.slots_of_ne_write (hphase : u.phase ≠ .write) : SlotsHold s k u := by
  simpa [hphase] using hat.slots

theorem AtBand.slots_of_write (hphase : u.phase = .write) : SlotsHold s (k + 1) u := by
  simpa [hphase] using hat.slots

/-- Taking a turn changes nothing of it. -/
theorem AtBand.withTurns (turns : List Turn) : AtBand s k { u with turns } :=
  { hat with slots := hat.slots.congr rfl ⟨rfl, rfl, rfl⟩ rfl }

include h hparams

/-- `row` after band `k`. -/
theorem AtBand.nextRow (hband : BandInRange u.params u.row.toNat) :
    (BitVec.ofNat 16 (u.row.toNat + u.params.bandHeight)).toNat = (k + 1) * s.params.bandHeight := by
  rw [nextRow_toNat h.legal hband, hat.row, hparams, Nat.succ_mul]

/-- The conversion at `row`, of either variant. -/
theorem AtBand.slots_convertRows (hphase : u.phase = .convert) :
    SlotsHold s (k + 1) (convertRows u.row.toNat u.sel u) := by
  have hpos : 0 < s.params.bandHeight := hparams ▸ legal_bandHeight_pos h.legal
  have hsel : u.sel = s.params.bandSlot u.row.toNat := by rw [hat.sel, hparams]
  exact (hat.slots_of_ne_write (by simp [hphase])).convertRows hpos hat.row hsel

theorem AtBand.convert (hphase : u.phase = .convert) :
    AtBand s k { convertRows u.row.toNat u.sel u with phase := .write } := by
  obtain ⟨emitted, hcount, hpanel⟩ := hat.panel
  exact
    { row := by simpa using hat.row
      sel := by simpa using hat.sel
      panel := ⟨emitted, by simpa using hcount, (convertRows_panelOut _ _ u).trans hpanel⟩
      slots := (hat.slots_convertRows h hparams hphase).congr rfl ⟨rfl, rfl, rfl⟩ rfl
      rsp := by simpa using hat.rsp_eq (by simp [hphase])
      atEnd := by simp }

/-- The producer step: the band converted joins the pending ones. -/
theorem AtBand.produce (hphase : u.phase = .convert) (hband : BandInRange u.params u.row.toNat) :
    AtBand s (k + 1) (Machine.drainTest (afterProduce u)) := by
  have hproduced : (afterProduce u).phase = .convert := (convertRows_phase _ _ u).trans hphase
  obtain ⟨emitted, hcount, hpanel⟩ := hat.panel
  refine AtBand.drainTest ⟨hat.nextRow h hparams hband, ?_, ⟨emitted, ?_, ?_⟩, ?_, ?_, ?_⟩ hproduced
  · simpa [afterProduce] using h.common.nextSel hband hat.sel
  · simp [afterProduce, ← hcount, Nat.add_assoc]
  · exact (convertRows_panelOut _ _ u).trans hpanel
  · rw [hproduced, if_neg (by decide)]
    exact (hat.slots_convertRows h hparams hphase).congr rfl ⟨rfl, rfl, rfl⟩ rfl
  · rw [hproduced, if_neg (by decide), List.append_nil]
    exact (convertRows_rspOut _ _ u).trans (hat.rsp_eq (by simp [hphase]))
  · simp [hproduced]

theorem AtBand.complete (hphase : u.phase = .drain) : AtBand s k (respond .ok 0x00#8 u) where
  row := hat.row
  sel := hat.sel
  panel := hat.panel
  slots := (hat.slots_of_ne_write (by simp [hphase])).congr rfl ⟨rfl, rfl, rfl⟩ rfl
  rsp := by simp [hat.rsp_eq (by simp [hphase]), responseWord, statusCode]
  atEnd _ := hparams ▸ h.drainRow hphase

variable (hstore : KeepsStore s u)
include hstore

/-- The write step: band `k` goes out, and the REFRESH is at the next band or at its end. -/
theorem AtBand.write (hphase : u.phase = .write) (hband : BandInRange u.params u.row.toNat)
    (hpending : u.pending = []) : AtBand s (k + 1) (loopTest (afterWrite u)) := by
  obtain ⟨emitted, hcount, hpanel⟩ := hat.panel
  obtain rfl : emitted = k := by simpa [hpending] using hcount
  have hframe := (h.writeHolds hphase).frame_eq_bandFrame_of hparams hstore hat.row
  have hout : Emitted s (emitted + 1) (afterWrite u) := hpanel.emit (by rw [← hframe]; rfl)
  exact atBand_loopTest (hat.nextRow h hparams hband) (h.common.nextSel hband hat.sel) hpending hout
    ((hat.slots_of_write hphase).congr rfl ⟨rfl, rfl, rfl⟩ rfl) (hat.rsp_eq (by simp [hphase]))
    (hparams ▸ (h.common.nextRow hband).2) hparams

/-- The consumer step: the oldest pending band goes out, which is the first not yet emitted. -/
theorem AtBand.consume (hi : u.phase ≠ .idle) {e : BandWriteReq} {rest : List BandWriteReq}
    (hpending : u.pending = e :: rest) : AtBand s k (afterConsume e rest u) := by
  obtain ⟨emitted, hcount, hpanel⟩ := hat.panel
  have hhead := h.pendingBands
  rw [hpending] at hhead hcount
  have holdest : e.row.toNat = emitted * s.params.bandHeight := by
    have hrow := hhead.head_row_eq
    rw [hat.row, ← hcount, hparams, List.length_cons, Nat.add_mul emitted] at hrow
    exact Nat.add_right_cancel hrow
  have hframe := (h.pendingHolds e (by simp [hpending])).frame_eq_bandFrame_of hparams hstore holdest
  refine ⟨hat.row, hat.sel, ⟨emitted + 1, ?_, hpanel.emit ?_⟩, hat.slots.congr rfl ⟨rfl, rfl, rfl⟩ rfl,
    hat.rsp, fun hidle => absurd hidle hi⟩
  · rw [← hcount, List.length_cons]
    exact Nat.succ_add_eq_add_succ emitted rest.length
  · rw [← hframe]
    rfl

/-- Every move of the scheduler leaves the REFRESH at its band or brings it to the next. -/
theorem RefreshMove.atBand (hm : RefreshMove u t) (hi : u.phase ≠ .idle) : ∃ k', AtBand s k' t := by
  cases hm with
  | convert _ hphase => exact ⟨k, hat.convert h hparams hphase⟩
  | write hover hphase hband =>
    exact ⟨k + 1, hat.write h hparams hstore hphase hband (h.sequentialQuiet hover).1⟩
  | wait => exact ⟨k, hat⟩
  | produce _ hphase hband => exact ⟨k + 1, hat.produce h hparams hphase hband⟩
  | consume e rest _ _ hpending => exact ⟨k, hat.consume h hparams hstore hi hpending⟩
  | complete _ hphase => exact ⟨k, hat.complete h hparams hphase⟩

end

/-! ### The run to IDLE -/

/-- What every step of a REFRESH in progress keeps, `runToIdle` keeps. -/
theorem runToIdle_keeps {P : State → Prop}
    (hkeep : ∀ u v, u.phase ≠ .idle → P u → step u = .next v → P v) {n : Nat} (h : P u)
    (hrun : runToIdle n u = .next t) : P t := by
  induction n generalizing u with
  | zero => cases hrun; exact h
  | succ n ih =>
    unfold runToIdle at hrun
    split at hrun
    · cases hrun; exact h
    · rename_i hi
      obtain ⟨v, hstep, hrest⟩ := andThen_next hrun
      exact ih (hkeep u v hi h hstep) hrest

/-- What holds of `u` on the way of the REFRESH accepted in `s`. -/
structure Refreshing (s u : State) : Prop where
  inv : Inv u
  noReset : NoReset u
  params : u.params = s.params
  store : KeepsStore s u
  progress : ∃ k, AtBand s k u

theorem Refreshing.step (h : Refreshing s u) (hi : u.phase ≠ .idle) (hstep : step u = .next t) :
    Refreshing s t := by
  have hmove := step_refreshMove hi h.noReset.head_ne hstep
  have hstore : KeepsStore s (popTurn u) := h.store.trans ⟨rfl, rfl, rfl⟩
  obtain ⟨k, hat⟩ := h.progress
  exact
    { inv := step_inv h.inv hstep
      noReset := step_noReset h.noReset hstep
      params := (step_grows hstep).params.trans h.params
      store := hstore.trans hmove.keepsStore
      progress := RefreshMove.atBand (h.inv.withPorts u.cmdIn u.turns.tail) h.params
        (hat.withTurns u.turns.tail) hstore hmove hi }

theorem refreshing_accepted (h : Inv s) (hi : s.phase = .idle) (hr : NoReset s) :
    Refreshing s { s with row := 0#16, sel := false, phase := .convert } where
  inv := CommandMove.accepted.inv h hi
  noReset := hr
  params := rfl
  store := ⟨rfl, rfl, rfl⟩
  progress := ⟨0, atBand_accepted (h.idleQuiet hi).1⟩

/-- What the REFRESH accepted in `s` has done when it is back in IDLE. -/
structure Refreshed (s t : State) : Prop where
  inv : Inv t
  idle : t.phase = .idle
  params : t.params = s.params
  store : KeepsStore s t
  row : t.row.toNat = s.params.height
  sel : t.sel = s.params.bandSlot s.params.height
  panel : t.panelOut = s.panelOut ++ refreshSymbols s
  slots : SlotsHold s s.params.bands t
  rsp : t.rspOut = s.rspOut ++ [0x0000#16]

theorem Refreshing.refreshed (h : Refreshing s t) (hi : t.phase = .idle) : Refreshed s t := by
  obtain ⟨hinv, -, hparams, hstore, k, hrow, hsel, ⟨emitted, hcount, hpanel⟩, hslots, hrsp, hend⟩ := h
  have hl : s.params.Legal := hparams ▸ hinv.legal
  have hk : k = s.params.bands := by
    refine Nat.eq_of_mul_eq_mul_right (legal_bandHeight_pos hl) ?_
    rw [← hrow, hend hi, bands_mul_bandHeight hl]
  rw [(hinv.idleQuiet hi).1] at hcount
  obtain rfl : emitted = k := hcount
  subst hk
  exact
    { inv := hinv
      idle := hi
      params := hparams
      store := hstore
      row := hend hi
      sel := by rw [hsel, hparams, hend hi]
      panel := hpanel
      slots := by simpa [hi] using hslots
      rsp := by simpa [hi] using hrsp }

/-- A REFRESH that is back in IDLE has done its work, under every schedule. -/
theorem runToIdle_refreshed {a : State} {n : Nat} (h : Inv s) (hi : s.phase = .idle) (hr : NoReset s)
    (haccept : exec .refresh s = .next a) (hrun : runToIdle n a = .next t) (hidle : t.phase = .idle) :
    Refreshed s t := by
  cases haccept
  exact (runToIdle_keeps (fun u v hphase hu hstep => hu.step hphase hstep)
    (refreshing_accepted h hi hr) hrun).refreshed hidle

theorem bandSlot_mul {p : Params} (hpos : 0 < p.bandHeight) (k : Nat) :
    p.bandSlot (k * p.bandHeight) = (k % 2 == 1) := by
  rw [Params.bandSlot, Nat.mul_div_cancel k hpos]

/-- Settles O47: `Refreshed` clause by clause; the last two bands are in the slots of their parities. -/
theorem refreshAsAWhole : Obligations.RefreshAsAWhole := by
  unfold Obligations.RefreshAsAWhole
  intro s a t n h hi hr haccept hrun hidle
  obtain ⟨hinv, -, hparams, ⟨hfb, hrunCount, hcmd⟩, hrow, hsel, hpanel, ⟨hholds, hslot1⟩, hrsp⟩ :=
    runToIdle_refreshed h hi hr haccept hrun hidle
  have hpos := legal_bandHeight_pos h.legal
  have hheight := bands_mul_bandHeight h.legal
  have hbands := bands_pos h.legal
  obtain ⟨hpending, hquiet⟩ := hinv.idleQuiet hidle
  refine ⟨hpanel, refreshSymbols_length s, ?_, hholds _ (by omega) (by omega), ?_,
    fun hone => hslot1 hone.le, hrow, ?_, hrsp, hpending, hquiet, hparams, hfb, hcmd, hrunCount⟩
  · rw [Params.bandBytes, Nat.mul_left_comm, bands_mul_bandPixels h.legal, Nat.mul_assoc]
  · intro htwo
    have hlast := hholds (s.params.bands - 2) (by omega) (by omega)
    rwa [bandSlot_mul hpos, ← Nat.mod_eq_sub_mod htwo] at hlast
  · rw [hsel, ← hheight, bandSlot_mul hpos]

end Sys2Proof.Machine
end

section
/-! PROOF. A REFRESH ends (42_transfer_scheduler.md R123, R124, 70_reset_and_hazards.md R175): the steps it has
left fall with every step but those on which the block waits for a busy backend. -/

namespace Sys2Proof.Machine

variable {s t : State} {turn : Turn}

/-! ### The steps left -/

/-- The bands from `row` to the bottom edge. -/
def bandsLeft (s : State) : Nat := (s.params.height - s.row.toNat) / s.params.bandHeight

/-- At least as many as the steps a REFRESH has left if the backend is not busy: two for each band from `row` on,
one for each band converted and not yet emitted, and, but in WRITE, where the conversion at `row` is done, one
more. -/
def stepsLeft (s : State) : Nat :=
  2 * bandsLeft s + s.pending.length + if s.phase = .convert ∨ s.phase = .drain then 1 else 0

/-- Advancing `row` leaves one band less. -/
theorem bandsLeft_advance (hl : s.params.Legal) (hband : BandInRange s.params s.row.toNat)
    (hparams : t.params = s.params) (hrow : t.row = BitVec.ofNat 16 (s.row.toNat + s.params.bandHeight)) :
    bandsLeft s = bandsLeft t + 1 := by
  have hsplit : s.params.height - s.row.toNat =
      s.params.height - (s.row.toNat + s.params.bandHeight) + s.params.bandHeight := by
    have : s.row.toNat + s.params.bandHeight ≤ s.params.height := hband
    omega
  rw [bandsLeft, bandsLeft, hparams, hrow, nextRow_toNat hl hband, hsplit,
    Nat.add_div_right _ (legal_bandHeight_pos hl)]

theorem stepsLeft_convertStep (h : convertStep s = .next t) (hphase : s.phase = .convert) :
    stepsLeft t < stepsLeft s := by
  obtain ⟨_, _, rfl⟩ := convertStep_next h
  simp [stepsLeft, bandsLeft, hphase]

theorem stepsLeft_writeStep (hl : s.params.Legal) (h : writeStep s = .next t) (hphase : s.phase = .write) :
    stepsLeft t < stepsLeft s := by
  obtain ⟨hband, rfl⟩ := writeStep_next h
  have hloop : stepsLeft (loopTest (afterWrite s)) ≤ 2 * bandsLeft (afterWrite s) + s.pending.length + 1 := by
    unfold loopTest
    split
    · exact Nat.le_refl _
    · exact Nat.le_succ _
  have hleft : bandsLeft s = bandsLeft (afterWrite s) + 1 := bandsLeft_advance hl hband rfl rfl
  have hnow : stepsLeft s = 2 * bandsLeft s + s.pending.length := by simp [stepsLeft, hphase]
  omega

theorem stepsLeft_producerStep (hl : s.params.Legal) (h : producerStep s = .next t)
    (hphase : s.phase = .convert) : stepsLeft t < stepsLeft s := by
  obtain ⟨_, hband, rfl⟩ := producerStep_next h
  have hproduced : (afterProduce s).phase = .convert := (convertRows_phase _ _ s).trans hphase
  have hdrain : stepsLeft (drainTest (afterProduce s)) =
      2 * bandsLeft (afterProduce s) + (s.pending.length + 1) + 1 := by
    have hpending : (afterProduce s).pending.length = s.pending.length + 1 := by simp [afterProduce]
    rw [← hpending]
    unfold drainTest
    split
    · rfl
    · simp [stepsLeft, hproduced]
  have hleft : bandsLeft s = bandsLeft (afterProduce s) + 1 :=
    bandsLeft_advance hl hband (convertRows_params _ _ s) rfl
  have hnow : stepsLeft s = 2 * bandsLeft s + s.pending.length + 1 := by simp [stepsLeft, hphase]
  omega

theorem stepsLeft_consumerStep {e : BandWriteReq} {rest : List BandWriteReq}
    (h : consumerStep e rest s = .next t) (hpending : s.pending = e :: rest) : stepsLeft t < stepsLeft s := by
  obtain ⟨_, rfl⟩ := consumerStep_next h
  have hleft : bandsLeft (afterConsume e rest s) = bandsLeft s := rfl
  have hphase : (afterConsume e rest s).phase = s.phase := rfl
  have hrest : (afterConsume e rest s).pending = rest := rfl
  rw [stepsLeft, stepsLeft, hleft, hphase, hrest, hpending, List.length_cons]
  omega

theorem stepsLeft_complete (hphase : s.phase = .drain) :
    stepsLeft (respond .ok 0x00#8 s) < stepsLeft s := by
  simp [stepsLeft, bandsLeft, hphase]

/-- A step of the scheduler leaves fewer, or the block waits on the backend. -/
theorem refreshStep_stepsLeft (hl : s.params.Legal) (hi : s.phase ≠ .idle)
    (h : refreshStep turn s = .next t) : stepsLeft t < stepsLeft s ∨ turn = .backendBusy ∧ t = s := by
  obtain ⟨_, hphase, h⟩ | ⟨_, hphase, _, h⟩ | ⟨_, _, hbusy, rfl⟩ | ⟨_, _, h⟩ := refreshStep_next h hi
  · exact .inl (stepsLeft_convertStep h hphase)
  · exact .inl (stepsLeft_writeStep hl h hphase)
  · exact .inr ⟨hbusy, rfl⟩
  · obtain ⟨hphase, h⟩ | ⟨e, rest, hpending, _, h⟩ | ⟨hphase, _, rfl⟩ | ⟨hbusy, _, _, rfl⟩ :=
      overlapStep_next h
    · exact .inl (stepsLeft_producerStep hl h hphase)
    · exact .inl (stepsLeft_consumerStep h hpending)
    · exact .inl (stepsLeft_complete hphase)
    · exact .inr ⟨hbusy, rfl⟩

/-! ### The busy turns -/

/-- With the busy turns to come, every step of a REFRESH leaves fewer. -/
theorem step_stepsLeft (hi : s.phase ≠ .idle) (hr : NoReset s) (hstep : step s = .next t) :
    stepsLeft t + t.turns.count .backendBusy < stepsLeft s + s.turns.count .backendBusy := by
  obtain ⟨hl, _⟩ := step_next hstep
  have hturns := step_turns hstep
  have hpop : stepsLeft (popTurn s) = stepsLeft s := rfl
  rw [step_refreshing hl hr.head_ne hi] at hstep
  obtain hless | ⟨hbusy, rfl⟩ := refreshStep_stepsLeft (s := popTurn s) hl hi hstep
  · have hcount : t.turns.count .backendBusy ≤ s.turns.count .backendBusy :=
      hturns ▸ (List.tail_sublist s.turns).count_le _
    omega
  · rw [headTurn_eq_iff (by decide)] at hbusy
    obtain ⟨rest, hcons⟩ := List.head?_eq_some_iff.mp hbusy
    rw [hturns, hpop, hcons, List.tail_cons, List.count_cons_self]
    omega

/-- As many steps as are left, with the busy turns, reach IDLE. -/
theorem exists_runToIdle_idle {n : Nat} (h : Inv s) (hr : NoReset s)
    (hn : stepsLeft s + s.turns.count .backendBusy ≤ n) :
    ∃ t, runToIdle n s = .next t ∧ t.phase = .idle := by
  induction n generalizing s with
  | zero =>
    refine ⟨s, rfl, by_contra fun hi => ?_⟩
    obtain ⟨u, hstep⟩ := exists_step_next h
    have := step_stepsLeft hi hr hstep
    omega
  | succ n ih =>
    unfold runToIdle
    split
    · exact ⟨s, rfl, ‹_›⟩
    · rename_i hi
      obtain ⟨u, hstep⟩ := exists_step_next h
      have hless := step_stepsLeft hi hr hstep
      rw [hstep, andThen_of_next]
      exact ih (step_inv h hstep) (step_noReset hr hstep) (by omega)

/-- Settles O48: at its acceptance a REFRESH has two steps left for each band and the completion. -/
theorem refreshEnds : Obligations.RefreshEnds := by
  unfold Obligations.RefreshEnds
  intro s a n h hi hr haccept hn
  have hstart := refreshing_accepted h hi hr
  cases haccept
  refine exists_runToIdle_idle hstart.inv hstart.noReset (le_trans (Nat.add_le_add_right ?_ _) hn)
  simp [stepsLeft, bandsLeft, Params.bands, (h.idleQuiet hi).1]

end Sys2Proof.Machine
end

section
/-! PROOF. OVERLAP = 1 and OVERLAP = 0 end in the same state (42_transfer_scheduler.md R136): what a REFRESH has
done when it is back in IDLE does not name OVERLAP, and it fixes every field. -/

namespace Sys2Proof.Machine

variable {s t u : State}

/-- A slot in canonical form that holds a band has no other contents. -/
theorem HoldsBand.slot_eq {slot : Bool} {r : Nat} (ht : HoldsBand t slot r) (hu : HoldsBand u slot r)
    (hwt : Memory.wf t.params.bandPixels (t.stage.get slot) = true)
    (hwu : Memory.wf u.params.bandPixels (u.stage.get slot) = true)
    (hparams : t.params = { u.params with overlap := t.params.overlap }) (hfb : ∀ a, fbRead t a = fbRead u a) :
    t.stage.get slot = u.stage.get slot := by
  have hwidth : t.params.width = u.params.width := by rw [hparams]
  have hpixels : t.params.bandPixels = u.params.bandPixels := by rw [hparams]; rfl
  rw [hpixels] at hwt
  refine Memory.ext_read hwt hwu fun q => ?_
  by_cases hq : q < u.params.bandPixels
  · rw [ht q (hpixels ▸ hq), hu q hq, bandPixel, bandPixel, nativeAt_of_fbRead_eq hfb, hwidth]
  · rw [Memory.read_above hwt (Nat.not_lt.mp hq), Memory.read_above hwu (Nat.not_lt.mp hq)]

/-- `s` with the other value of OVERLAP or the same, and other turns (10_state.md R30). -/
def variant (s : State) (overlap : Bool) (turns : List Turn) : State :=
  { s with params := { s.params with overlap := overlap }, turns := turns }

theorem refreshSymbols_variant (s : State) (overlap : Bool) (turns : List Turn) :
    refreshSymbols (variant s overlap turns) = refreshSymbols s :=
  List.flatMap_congr fun k _ => bandFrame_congr (u := variant s overlap turns) rfl (fun _ => rfl) k

theorem Inv.variant (h : Inv s) (hi : s.phase = .idle) (overlap : Bool) (turns : List Turn) :
    Inv (variant s overlap turns) := by
  have hpending := (h.idleQuiet hi).1
  refine CommonInv.inv ?_ (.idle hi hpending)
  exact
    { legal := h.legal
      fbWf := h.fbWf
      stageWf := h.stageWf
      rowAligned := h.rowAligned
      rowInFrame := h.rowInFrame
      pendingBands := by
        rw [show (Machine.variant s overlap turns).pending = [] from hpending]
        trivial
      inflightPending := h.inflightPending
      pendingHolds := h.pendingHolds }

/-- With one band only slot 0 holds a band and slot 1 is as before; with more, both slots hold one. -/
theorem lastBand_slot_cases {p : Params} (hl : p.Legal) (slot : Bool) :
    (∃ k, k < p.bands ∧ p.bands ≤ k + 2 ∧ slot = p.bandSlot (k * p.bandHeight)) ∨
      slot = true ∧ p.bands ≤ 1 := by
  obtain ⟨m, hm⟩ : ∃ m, p.bands = m + 1 := Nat.exists_eq_add_one.mpr (bands_pos hl)
  by_cases hlast : slot = p.bandSlot (m * p.bandHeight)
  · exact .inl ⟨m, by omega, by omega, hlast⟩
  · cases m with
    | zero =>
      refine .inr ⟨?_, hm.le⟩
      simpa [bandSlot_zero] using hlast
    | succ j =>
      refine .inl ⟨j, by omega, by omega, ?_⟩
      rw [bandSlot_succ (legal_bandHeight_pos hl)] at hlast
      simpa using hlast

/-- The REFRESH of either variant leaves the same slots. -/
theorem Refreshed.stage_eq {overlap : Bool} {turns : List Turn} (ht : Refreshed s t)
    (hu : Refreshed (variant s overlap turns) u) : u.stage = t.stage := by
  have hl : s.params.Legal := ht.params ▸ ht.inv.legal
  refine TwoSlots.ext_get fun slot => ?_
  obtain ⟨k, hlt, hle, rfl⟩ | ⟨rfl, hone⟩ := lastBand_slot_cases hl slot
  · refine (hu.slots.holds k hlt hle).slot_eq (ht.slots.holds k hlt hle) (hu.inv.stageWf _)
      (ht.inv.stageWf _) ?_ ?_
    · rw [hu.params, ht.params]
      rfl
    · exact fbRead_congr (hu.store.fb.trans ht.store.fb.symm) (hu.store.run.trans ht.store.run.symm)
  · exact (hu.slots.slot1 hone).trans (ht.slots.slot1 hone).symm

/-- The REFRESH of either variant ends in the same state. -/
theorem Refreshed.eq_variant {overlap : Bool} {turns : List Turn} (ht : Refreshed s t)
    (hu : Refreshed (variant s overlap turns) u) : u = variant t overlap u.turns := by
  have hparams : u.params = { t.params with overlap := overlap } := by rw [hu.params, ht.params]; rfl
  have hrow : u.row = t.row := BitVec.eq_of_toNat_eq (hu.row.trans ht.row.symm)
  have hpanel : u.panelOut = t.panelOut := by
    rw [hu.panel, ht.panel, refreshSymbols_variant]
    rfl
  obtain ⟨hpendingT, hquietT⟩ := ht.inv.idleQuiet ht.idle
  obtain ⟨hpendingU, hquietU⟩ := hu.inv.idleQuiet hu.idle
  have hinflight : u.inflight = t.inflight :=
    TwoSlots.ext_get fun slot => (hquietU slot).trans (hquietT slot).symm
  change State.mk u.params u.fb u.stage u.sel u.row u.phase u.inflight u.pending u.panelOut u.rspOut u.cmdIn
    u.turns u.run = _
  rw [hparams, hu.store.fb.trans ht.store.fb.symm, ht.stage_eq hu, hu.sel.trans ht.sel.symm, hrow,
    hu.idle.trans ht.idle.symm, hinflight, hpendingU.trans hpendingT.symm, hpanel, hu.rsp.trans ht.rsp.symm,
    hu.store.cmdIn.trans ht.store.cmdIn.symm, hu.store.run.trans ht.store.run.symm]
  rfl

/-- Settles O49: both have done what `Refreshed` says, which fixes all but OVERLAP and the turns. -/
theorem overlapChangesNothingObservable : Obligations.OverlapChangesNothingObservable := by
  unfold Obligations.OverlapChangesNothingObservable
  intro s a₀ a₁ t₀ t₁ turns₁ n₀ n₁ h hi hr hr₁ haccept₀ haccept₁ hrun₀ hidle₀ hrun₁ hidle₁
  have hdone₀ := runToIdle_refreshed h hi hr haccept₀ hrun₀ hidle₀
  have hdone₁ := runToIdle_refreshed (h.variant hi true turns₁) hi hr₁ haccept₁ hrun₁ hidle₁
  exact hdone₀.eq_variant hdone₁

end Sys2Proof.Machine
end

section
/-! PROOF. The error responses (60_exceptions.md R150 to R157, R160): a command that fails is a `raise`, which
appends its one response word and leaves the rest. -/

namespace Sys2Proof.Machine

variable {s t : State} {w : CmdWord} {v : Half}

/-! ### Where the block raises an error -/

theorem runWord_error {e : Illegal} (hd : decode w = .error e) (s : State) :
    runWord w s = .next (raise .illegalCmd s) := by
  unfold runWord
  rw [hd]

/-- Settles O11: a word that does not decode raises IllegalCommand, code 0x01. -/
theorem illegalWordIsAnswered : Obligations.IllegalWordIsAnswered := by
  unfold Obligations.IllegalWordIsAnswered
  intro s w e hd
  exact runWord_error hd s

/-- Settles O19: the pixel is out of range, and CoordinateOutOfRange has code 0x02. -/
theorem writePixelOutOfRangeFails : Obligations.WritePixelOutOfRangeFails := by
  unfold Obligations.WritePixelOutOfRangeFails
  intro s x y c hout
  have hpixel : ¬ PixelInRange s.params x y := by omega
  exact execWritePixel_out hpixel c

/-- Settles O22: the address is out of range, and AddressOutOfRange has code 0x04. -/
theorem readFbOutOfRangeFails : Obligations.ReadFbOutOfRangeFails := by
  unfold Obligations.ReadFbOutOfRangeFails
  intro s a hout
  exact execReadFb_out hout.not_gt

/-! ### The block in IDLE -/

/-- In IDLE already, an error response appends to RSP_OUT and changes nothing else. -/
theorem raise_of_idle (hi : s.phase = .idle) (e : Status) :
    raise e s = { s with rspOut := s.rspOut ++ [responseWord e 0x00#8] } := by
  rw [raise, respond, ← hi]

theorem idleStep_nil (hc : s.cmdIn = []) : idleStep s = .next s := by
  unfold idleStep takeCommand
  rw [hc]

/-- Settles O12: the step runs the word it takes, which raises IllegalCommand in IDLE. -/
theorem stepAnswersAnIllegalWord : Obligations.StepAnswersAnIllegalWord := by
  unfold Obligations.StepAnswersAnIllegalWord
  intro s w ws e hl hi hc hd hr
  rw [step_idle_cons hl hi hc hr, runWord_error hd]
  exact congrArg _ (raise_of_idle (s := { s with cmdIn := ws, turns := s.turns.tail }) hi _)

/-- Settles O13: the turn is taken, and with no word presented the block keeps its state. -/
theorem idleBlockKeepsItsState : Obligations.IdleBlockKeepsItsState := by
  unfold Obligations.IdleBlockKeepsItsState
  intro s hl hi hc hr
  rw [step_run hl hr, if_pos hi]
  exact idleStep_nil (s := popTurn s) hc

/-! ### The response of a REFRESH -/

theorem loopTest_rspOut_cases (s : State) :
    (loopTest s).rspOut = s.rspOut ∨ (loopTest s).rspOut = s.rspOut ++ [responseWord .ok 0x00#8] := by
  unfold loopTest
  split
  · exact .inl rfl
  · exact .inr rfl

theorem drainTest_rspOut (s : State) : (drainTest s).rspOut = s.rspOut := by
  unfold drainTest
  split <;> rfl

/-- No move of a REFRESH responds anything but its completion. -/
theorem RefreshMove.rspOut_cases (h : RefreshMove s t) :
    t.rspOut = s.rspOut ∨ t.rspOut = s.rspOut ++ [responseWord .ok 0x00#8] := by
  cases h with
  | convert => exact .inl (convertRows_rspOut s.row.toNat s.sel s)
  | write => exact loopTest_rspOut_cases (afterWrite s)
  | wait => exact .inl rfl
  | produce => exact .inl ((drainTest_rspOut _).trans (convertRows_rspOut s.row.toNat s.sel s))
  | consume => exact .inl rfl
  | complete => exact .inr rfl

theorem step_refreshing_rspOut_cases (hi : s.phase ≠ .idle) (h : step s = .next t) :
    t.rspOut = s.rspOut ∨ t.rspOut = s.rspOut ++ [responseWord .ok 0x00#8] := by
  obtain ⟨_, ⟨n, _, rfl⟩ | ⟨hidle, _⟩ | ⟨_, _, hidle, _⟩ | ⟨_, _, hrefresh⟩⟩ := step_next h
  · exact .inl rfl
  · exact absurd hidle hi
  · exact absurd hidle hi
  · exact (refreshStep_move hrefresh hi).rspOut_cases

/-- Settles O31: the band is out of range, and RowOutOfRange has code 0x03; a step of a REFRESH responds its
completion or nothing. -/
theorem convertBandPastTheEdgeFails : Obligations.ConvertBandPastTheEdgeFails := by
  unfold Obligations.ConvertBandPastTheEdgeFails
  constructor
  · intro s r hout
    exact execConvertBand_out hout.not_ge
  · intro s t w hi hstep hrsp
    obtain hnone | hok := step_refreshing_rspOut_cases hi hstep
    · simp [hnone] at hrsp
    · have hw : w = responseWord .ok 0x00#8 := by simpa using hrsp.symm.trans hok
      exact hw

/-! ### A failed command -/

theorem data_of_responseWord (st : Status) (data : Byte) :
    (responseWord st data).extractLsb' 0 8 = data := by
  unfold responseWord
  exact BitVec.extractLsb'_append_eq_right

/-- A response with status OK is no failure. -/
theorem status_of_ok_response {data : Byte} (hrsp : s.rspOut ++ [responseWord .ok data] = s.rspOut ++ [v]) :
    v.extractLsb' 8 8 = 0x00#8 := by
  have hv : responseWord .ok data = v := by simpa using hrsp
  rw [← hv]
  exact status_of_responseWord .ok data

/-- A move that responds with a non-zero status is the error response. -/
theorem CommandMove.eq_raise (h : CommandMove s t) (hrsp : t.rspOut = s.rspOut ++ [v])
    (hfail : v.extractLsb' 8 8 ≠ 0x00#8) : ∃ e, v = responseWord e 0x00#8 ∧ t = raise e s := by
  cases h with
  | raised e =>
    have hv : responseWord e 0x00#8 = v := by simpa using hrsp
    exact ⟨e, hv.symm, rfl⟩
  | read a => exact absurd (status_of_ok_response hrsp) hfail
  | drawn m => exact absurd (status_of_ok_response hrsp) hfail
  | converted r =>
    rw [respond_rspOut, convertRows_rspOut] at hrsp
    exact absurd (status_of_ok_response hrsp) hfail
  | accepted => simp at hrsp

/-- Settles O50: the command is an error response, with the data byte 0. -/
theorem failedCommandsChangeNothing : Obligations.FailedCommandsChangeNothing := by
  unfold Obligations.FailedCommandsChangeNothing
  intro s t w v hrun hrsp hfail
  obtain ⟨e, rfl, rfl⟩ := (runWord_commandMove hrun).eq_raise hrsp hfail
  exact ⟨data_of_responseWord e 0x00#8, rfl⟩

end Sys2Proof.Machine
end

section
/-! PROOF. An error is not sticky (60_exceptions.md R161): no command reads RSP_OUT, so the responses before it
change neither what it does nor what it responds. -/

namespace Sys2Proof.Machine

variable {s t u : State}

/-- `s` with another record of responses. -/
def withRspOut (out : List Half) (s : State) : State := { s with rspOut := out }

/-! ### The loops of FILL and CONVERT_BAND -/

theorem fbFill_withRspOut (out : List Half) (s : State) (c : Color) :
    fbFill (withRspOut out s) c = withRspOut out (fbFill s c) :=
  List.foldl_hom (withRspOut out) fun _ _ => rfl

theorem convertRow_withRspOut (r : Nat) (slot : Bool) (out : List Half) (s : State) (j : Nat) :
    convertRow r slot (withRspOut out s) j = withRspOut out (convertRow r slot s j) :=
  List.foldl_hom (withRspOut out) fun _ _ => rfl

theorem convertRows_withRspOut (r : Nat) (slot : Bool) (out : List Half) (s : State) :
    convertRows r slot (withRspOut out s) = withRspOut out (convertRows r slot s) :=
  List.foldl_hom (withRspOut out) fun t j => convertRow_withRspOut r slot out t j

/-! ### Every command -/

/-- From `s` to `u` the operation appends to RSP_OUT, and with another record of responses it appends the same
words and goes to the same state otherwise. -/
def IgnoresRspOut (f : State → Host.Outcome State Fault Refusal) (s u : State) : Prop :=
  ∃ rsp, u.rspOut = s.rspOut ++ rsp ∧
    ∀ out, f (withRspOut out s) = .next (withRspOut (out ++ rsp) u)

/-- An operation that leaves RSP_OUT alone, then a response. -/
theorem ignoresRspOut_respond {f : State → Host.Outcome State Fault Refusal} {st : Status} {data : Byte}
    (hrsp : t.rspOut = s.rspOut)
    (hf : ∀ out, f (withRspOut out s) = .next (respond st data (withRspOut out t))) :
    IgnoresRspOut f s (respond st data t) :=
  ⟨[responseWord st data], by rw [respond_rspOut, hrsp], hf⟩

theorem exec_ignoresRspOut {i : Instr} (h : exec i s = .next u) : IgnoresRspOut (exec i) s u := by
  cases i with
  | writePixel x y c =>
    change execWritePixel x y c s = .next u at h
    by_cases hin : PixelInRange s.params x y
    · rw [execWritePixel_in hin] at h
      cases h
      exact ignoresRspOut_respond rfl fun out => execWritePixel_in (s := withRspOut out s) hin c
    · rw [execWritePixel_out hin] at h
      cases h
      exact ignoresRspOut_respond rfl fun out => execWritePixel_out (s := withRspOut out s) hin c
  | fill c =>
    cases h
    refine ignoresRspOut_respond (by rw [fbFill_eq]) fun out => ?_
    rw [exec_fill, fbFill_withRspOut]
  | readFb a =>
    change execReadFb a s = .next u at h
    by_cases hin : AddrInRange s.params a
    · rw [execReadFb_in hin] at h
      cases h
      exact ignoresRspOut_respond rfl fun out => execReadFb_in (s := withRspOut out s) hin
    · rw [execReadFb_out hin] at h
      cases h
      exact ignoresRspOut_respond rfl fun out => execReadFb_out (s := withRspOut out s) hin
  | convertBand r =>
    obtain ⟨hband, hfree, rfl⟩ | ⟨hout, rfl⟩ := execConvertBand_next h
    · refine ignoresRspOut_respond (convertRows_rspOut r s.sel s) fun out => ?_
      rw [← convertRows_withRspOut]
      exact execConvertBand_in (s := withRspOut out s) hband hfree
    · exact ignoresRspOut_respond rfl fun out => execConvertBand_out (s := withRspOut out s) hout
  | refresh =>
    cases h
    refine ⟨[], by simp, fun out => ?_⟩
    rw [List.append_nil]
    rfl

theorem runWord_ignoresRspOut {w : CmdWord} (h : runWord w s = .next u) :
    IgnoresRspOut (runWord w) s u := by
  cases hd : decode w with
  | ok i =>
    rw [runWord_ok hd] at h
    obtain ⟨rsp, hrsp, hexec⟩ := exec_ignoresRspOut h
    exact ⟨rsp, hrsp, fun out => (runWord_ok hd _).trans (hexec out)⟩
  | error e =>
    rw [runWord_error hd] at h
    cases h
    exact ignoresRspOut_respond rfl fun out => runWord_error hd _

/-- Settles O51: in IDLE the failed word only adds a response, which the next word ignores. -/
theorem errorsAreNotSticky : Obligations.ErrorsAreNotSticky := by
  unfold Obligations.ErrorsAreNotSticky
  intro s t u w₁ w₂ v hi hrun₁ hrsp hfail hrun₂
  obtain ⟨e, rfl, rfl⟩ := (runWord_commandMove hrun₁).eq_raise hrsp hfail
  obtain ⟨rsp, hrsp₂, hignores⟩ := runWord_ignoresRspOut hrun₂
  refine ⟨rsp, hrsp₂, ?_⟩
  rw [raise_of_idle hi]
  exact hignores _

end Sys2Proof.Machine
end

section
/-! PROOF. Reset (70_reset_and_hazards.md R170, R171; 10_state.md R36): what the two memories and the slot bits
read as straight after it, and how much of the frame in progress has gone out. -/

namespace Sys2Proof.Machine

variable {s : State}

/-! ### The reset values -/

/-- A pair of slots with one value in both. -/
@[simp] theorem TwoSlots.get_mk_self {α : Type} (v : α) (slot : Bool) :
    (TwoSlots.mk v v).get slot = v := by cases slot <;> rfl

/-- An FB that no command has written reads as the free values. -/
theorem fbRead_of_fb_nil (h : s.fb = []) (a : Nat) : fbRead s a = Config.fbAtReset s.run a := by
  rw [fbRead, h]
  rfl

/-- Slots that no conversion has written read as the free values. -/
theorem stageRead_of_stage_nil (h : s.stage = ⟨[], []⟩) (slot : Bool) (q : Nat) :
    stageRead s slot q = Config.stageAtReset s.run slot q := by
  rw [stageRead, h, TwoSlots.get_mk_self]
  rfl

/-- Settles O53: the model's parameter set is legal, and the fields are as `State.resetWith` sets them. -/
theorem stateAfterReset : Obligations.StateAfterReset := by
  unfold Obligations.StateAfterReset
  refine ⟨⟨Params.atReset, by decide, rfl⟩, fun p => ?_⟩
  exact ⟨rfl, rfl, rfl, rfl, TwoSlots.get_mk_self false, rfl, rfl, rfl, fbRead_of_fb_nil rfl,
    stageRead_of_stage_nil rfl⟩

/-! ### The frame in progress -/

theorem nextFrame_write (hover : s.params.overlap = false) (hphase : s.phase = .write) :
    nextFrame s = frame s s.row s.sel := by
  unfold nextFrame
  rw [hover]
  exact if_pos hphase

theorem nextFrame_of_ne_write (hover : s.params.overlap = false) (hphase : s.phase ≠ .write) :
    nextFrame s = [] := by
  unfold nextFrame
  rw [hover]
  exact if_neg hphase

theorem nextFrame_pending (hover : s.params.overlap = true) {e : BandWriteReq} {rest : List BandWriteReq}
    (hpending : s.pending = e :: rest) : nextFrame s = frame s e.row e.slot := by
  unfold nextFrame
  rw [hover, hpending]

theorem nextFrame_of_pending_nil (hover : s.params.overlap = true) (hpending : s.pending = []) :
    nextFrame s = [] := by
  unfold nextFrame
  rw [hover, hpending]

/-- A reset with no frame in progress emits nothing. -/
theorem resetEvent_panelOut_of_nextFrame_nil (h : nextFrame s = []) (n : Nat) :
    (resetEvent n s).panelOut = s.panelOut := by
  rw [resetEvent_panelOut, h, List.take_nil, List.append_nil]

/-- A reset with a frame in progress leaves it cut short. -/
theorem resetEvent_panelOut_of_nextFrame {syms : List Symbol} (h : nextFrame s = syms) (n : Nat) :
    (resetEvent n s).panelOut = s.panelOut ++ syms.take n := by
  rw [resetEvent_panelOut, h]

/-- Settles O54: the step is the reset event, which cuts short the frame that is next. -/
theorem resetAbandonsTheCommand : Obligations.ResetAbandonsTheCommand := by
  unfold Obligations.ResetAbandonsTheCommand
  intro s n rest hl hturns
  have hhead : s.turns.head? = some (.reset n) := by rw [hturns]; rfl
  have hrest : (popTurn s).turns = rest := by rw [popTurn_turns, hturns]; rfl
  refine ⟨_, step_reset hl hhead, rfl, rfl, rfl, TwoSlots.get_mk_self false, rfl, fbRead_of_fb_nil rfl,
    stageRead_of_stage_nil rfl, rfl, rfl, rfl, hrest, ?_, ?_, ?_, ?_⟩
  · intro hover hphase
    exact resetEvent_panelOut_of_nextFrame (nextFrame_write (s := popTurn s) hover hphase) n
  · intro hover hphase
    exact resetEvent_panelOut_of_nextFrame_nil (nextFrame_of_ne_write (s := popTurn s) hover hphase) n
  · intro hover e es hpending
    exact resetEvent_panelOut_of_nextFrame (nextFrame_pending (s := popTurn s) hover hpending) n
  · intro hover hpending
    exact resetEvent_panelOut_of_nextFrame_nil (nextFrame_of_pending_nil (s := popTurn s) hover hpending) n

end Sys2Proof.Machine
end

section
/-! PROOF. The hazards (70_reset_and_hazards.md R173, R175): a slot in flight is not converted into, and a busy
backend holds the block where an emission is all that it can do. -/

namespace Sys2Proof.Machine

variable {s t : State} {slot : Bool}

/-! ### Slot reuse -/

theorem loopTest_stage (s : State) : (loopTest s).stage = s.stage := by
  unfold loopTest
  split <;> rfl

theorem drainTest_stage (s : State) : (drainTest s).stage = s.stage := by
  unfold drainTest
  split <;> rfl

/-- A conversion into STAGE[sel] while `sel` is not in flight leaves a slot that is. -/
theorem convertRows_stage_inflight {r : Nat} (hfree : s.inflight.get s.sel = false)
    (hin : s.inflight.get slot = true) : (convertRows r s.sel s).stage.get slot = s.stage.get slot := by
  refine convertRows_stage_other ?_
  rintro rfl
  exact absurd (hin.symm.trans hfree) (by decide)

theorem CommandMove.stage_inflight (h : CommandMove s t) (hin : s.inflight.get slot = true) :
    t.stage.get slot = s.stage.get slot := by
  cases h with
  | converted r _ hfree => exact convertRows_stage_inflight hfree hin
  | _ => rfl

theorem RefreshMove.stage_inflight (h : RefreshMove s t) (hin : s.inflight.get slot = true) :
    t.stage.get slot = s.stage.get slot := by
  cases h with
  | convert _ _ _ hfree => exact convertRows_stage_inflight hfree hin
  | write => rw [loopTest_stage]; rfl
  | produce _ _ _ hfree =>
    rw [drainTest_stage]
    exact convertRows_stage_inflight hfree hin
  | _ => rfl

/-- Settles O34: only a conversion writes a slot, and it goes to STAGE[sel] with `sel` not in flight. -/
theorem slotInFlightIsNeverRewritten : Obligations.SlotInFlightIsNeverRewritten := by
  unfold Obligations.SlotInFlightIsNeverRewritten
  intro s t slot hr hstep hin
  obtain ⟨_, ⟨n, hn, _⟩ | ⟨_, _, _, rfl⟩ | ⟨w, ws, _, _, _, hrun⟩ | ⟨hi, _, hrefresh⟩⟩ := step_next hstep
  · exact absurd hn (hr n)
  · rfl
  · exact (runWord_commandMove hrun).stage_inflight hin
  · exact (refreshStep_move hrefresh hi).stage_inflight hin

/-! ### A busy backend -/

/-- With a band-write pending and no step for the producer, the block waits for the backend. -/
theorem overlapStep_busy (hpending : s.pending ≠ []) (hnone : producerEnabled s = false) :
    overlapStep .backendBusy s = .next s := by
  obtain ⟨e, rest, hcons⟩ := List.exists_cons_of_ne_nil hpending
  rw [overlapStep_cons hcons, if_pos rfl, hnone, if_neg Bool.false_ne_true]

/-- Settles O45: in each of the three cases the scheduler waits, so the step takes the turn and nothing else. -/
theorem busyBackendHoldsTheBlock : Obligations.BusyBackendHoldsTheBlock := by
  unfold Obligations.BusyBackendHoldsTheBlock
  intro s hl hbusy hwaits
  have hr : ∀ n, s.turns.head? ≠ some (.reset n) := by simp [hbusy]
  have hturn : s.turns.head?.getD .producerFirst = .backendBusy := by rw [hbusy]; rfl
  obtain ⟨hover, hphase⟩ | ⟨hover, hphase, hpending⟩ | ⟨hover, hphase, hin, hpending⟩ := hwaits
  · rw [step_refreshing hl hr (by simp [hphase]), refreshStep_write (s := popTurn s) hphase hover]
    exact if_pos hturn
  · rw [step_overlap hl hr (.inr hphase) hover, hturn]
    exact overlapStep_busy (s := popTurn s) hpending (by simp [producerEnabled, hphase])
  · rw [step_overlap hl hr (.inl hphase) hover, hturn]
    exact overlapStep_busy (s := popTurn s) hpending (by simp [producerEnabled, hin])

end Sys2Proof.Machine
end
